-- ==== Sys2Proof/Word.lean ====
section
/-! DEFINITION. The one width of the block: every frame field, the sequence counter and every payload element is a byte
(00_scope.md R8, R10; 20_memory.md R42). -/

namespace Sys2Proof

/-- An unsigned 8-bit value 0..255 (R10). -/
abbrev Byte := BitVec 8

/-- A byte string, first byte first on the wire (R11). -/
abbrev Bytes := List Byte

end Sys2Proof
end

