-- ==== Sys2Proof/Config.lean ====
section
/-! DEFINITION. The configuration of the block: the protocol's numeric constants (00_scope.md R9) and the implementation
parameters (R8). A `Config` is fixed for a machine; `State.cfg` carries it and no step writes it (log entry 4). -/

namespace Sys2Proof

/-- The numeric constants of the protocol, "held in one configuration record" (R9). -/
structure Constants where
  magic1     : Byte
  magic2     : Byte
  cmdPoll    : Byte
  cmdAck     : Byte
  cmdVend1   : Byte
  cmdVend3   : Byte
  cmdStatus  : Byte
  cmdReport  : Byte
  cmdConfirm : Byte
  stOk       : Byte
  deriving DecidableEq, Repr

/-- The values VMT gives, the defaults of the record (R9, D24). -/
def Constants.vmt : Constants where
  magic1     := 0xFA
  magic2     := 0xFB
  cmdPoll    := 0x41
  cmdAck     := 0x42
  cmdVend1   := 0x01
  cmdVend3   := 0x03
  cmdStatus  := 0x02
  cmdReport  := 0x04
  cmdConfirm := 0x06
  stOk       := 0x01

/-- R68: the four inbound codes the dispatch compares with are distinct. -/
def Constants.distinct (k : Constants) : Bool :=
  k.cmdPoll != k.cmdAck && k.cmdPoll != k.cmdStatus && k.cmdPoll != k.cmdReport &&
  k.cmdAck != k.cmdStatus && k.cmdAck != k.cmdReport && k.cmdStatus != k.cmdReport

/-- `SEQ_ON_DISCONNECT` (R8, 90_conflicts.md C7). -/
inductive SeqOnDisconnect where
  | keep
  | reinit
  deriving DecidableEq, Repr

/-- The parameters of R8. `none` stands for the spec's ∞. -/
structure Config where
  /-- the protocol's constants (R9) -/
  k               : Constants
  /-- `QDEPTH`, the capacity of the command queue in packets -/
  qdepth          : Option Nat
  /-- `SEQ_INIT` -/
  seqInit         : Byte
  /-- `SEQ_ON_DISCONNECT` -/
  seqOnDisconnect : SeqOnDisconnect
  /-- `RX_MAX`, the longest buffer the receive port accepts, in bytes -/
  rxMax           : Option Nat
  deriving DecidableEq, Repr

/-- `MAX_PAYLOAD`, "fixed by the one-byte `length` field" (R8). -/
abbrev maxPayload : Nat := 254

/-- The spec's defaults: SEQ_INIT = 1, KEEP, RX_MAX = ∞ (R8); QDEPTH = ∞ "reproduces the source" (log entry 5). -/
def Config.vmt : Config where
  k               := Constants.vmt
  qdepth          := none
  seqInit         := 1
  seqOnDisconnect := .keep
  rxMax           := none

/-- The values R8 and R68 allow: a finite QDEPTH is at least 1, SEQ_INIT is in 1..255, a finite RX_MAX at least 260, and
the inbound codes are distinct (log entry 15). -/
def Config.wf (c : Config) : Bool :=
  c.k.distinct && c.seqInit != 0 &&
  (match c.qdepth with | none => true | some d => decide (1 ≤ d)) &&
  (match c.rxMax with | none => true | some m => decide (260 ≤ m))

end Sys2Proof
end

