-- ==== Sys2Proof/Syntax.lean ====
section
/-! DEFINITION. The packet record, the instructions (one constructor per row of spec/opcode_table.json) and the requests
the machine takes from outside, before decoding. -/

namespace Sys2Proof

/-- R25: the decoded record. An absent `packNo` is 0x00 and an absent payload is [] (R26). -/
structure Packet where
  command : Byte
  length  : Byte
  packNo  : Byte
  payload : Bytes
  deriving DecidableEq, Repr

/-- The rows of spec/opcode_table.json. -/
inductive Instr where
  /-- POLL: a received frame with command 0x41 (R116) -/
  | poll (p : Packet)
  /-- ACK: a received frame with command 0x42 (R118) -/
  | ack (p : Packet)
  /-- STATUS: a received frame with command 0x02 (R120) -/
  | status (p : Packet)
  /-- REPORT: a received frame with command 0x04 (R126) -/
  | report (p : Packet)
  /-- OTHER: a received frame with any other command (R132) -/
  | other (p : Packet)
  /-- RX_INVALID: a received buffer that does not decode (R110) -/
  | rxInvalid (buf : Bytes)
  /-- RX_FRAME: one transaction of the receive port (R72, R110) -/
  | rxFrame (buf : Bytes)
  /-- HOST_ENQ: one transaction of the host port (R73, R140) -/
  | hostEnq (commandType : Byte) (payload : Bytes)
  /-- DISCONNECT (R74, R146) -/
  | disconnect
  /-- RESET (R74, R180) -/
  | reset
  /-- CODEC_CHECKSUM (R90) -/
  | codecChecksum (bs : Bytes)
  /-- CODEC_ENCODE (R91 to R93) -/
  | codecEncode (p : Packet)
  /-- CODEC_DECODE (R94 to R98) -/
  | codecDecode (buf : Bytes)
  /-- TX_ACK: the block emits the bare ACK (R115) -/
  | txAck
  /-- TX_COMMAND: the block emits a host-enqueued command (R116, R76) -/
  | txCommand (command packNo : Byte) (payload : Bytes)
  /-- TX_CONFIRM: the block emits a confirmation (R124, R76) -/
  | txConfirm (packNo row col : Byte)
  deriving DecidableEq, Repr

/-- The column "format" of the opcode table; rx_frame and rx_buffer are both a received byte buffer. -/
inductive Format where
  | port
  | rx
  | fn
  | tx
  deriving DecidableEq, Repr

/-- The format the opcode table gives a row. -/
def Instr.format : Instr → Format
  | .poll _ | .ack _ | .status _ | .report _ | .other _ | .rxInvalid _ => .rx
  | .rxFrame _ | .hostEnq _ _ | .disconnect | .reset => .port
  | .codecChecksum _ | .codecEncode _ | .codecDecode _ => .fn
  | .txAck | .txCommand _ _ _ | .txConfirm _ _ _ => .tx

/-- The three functions of `packet_codec` (40_codec.md). -/
inductive CodecFn where
  | checksum
  | encode
  | decode
  deriving DecidableEq, Repr

/-- What stands before the decoder. `port` is a transaction of one of the four input ports, the only requests an agent of
R7 issues: the 2-bit port code of the opcode table and the bytes the transaction carries. The other three start a row of
their format on its own (log entry 2). -/
inductive Request where
  /-- an input transaction: port code 0 RX_FRAME, 1 HOST_ENQ, 2 DISCONNECT, 3 RESET -/
  | port (code : BitVec 2) (data : Bytes)
  /-- a received buffer, already past the receive port -/
  | rx (buf : Bytes)
  /-- a call of a codec function, "exposed standalone" (R90) -/
  | fn (f : CodecFn) (data : Bytes)
  /-- a frame the block emits -/
  | tx (frame : Bytes)
  deriving DecidableEq, Repr

/-- The format a request belongs to. -/
def Request.format : Request → Format
  | .port _ _ => .port
  | .rx _ => .rx
  | .fn _ _ => .fn
  | .tx _ => .tx

end Sys2Proof
end

