-- ==== Sys2Proof/Machine/Codec.lean ====
section
/-! DEFINITION. `packet_codec` (40_codec.md): CHECKSUM, ENCODE and DECODE, three pure functions with no state (R21), over
the constants of R9. -/

namespace Sys2Proof

/-- R11: `s[i]`, the element at offset `i` counting from 0 (0x00 past the end, where no rule reads). -/
def byteAt (s : Bytes) (i : Nat) : Byte := s.getD i 0

/-- R11: `s[i..j)`, the elements of offsets `i` to `j-1`. -/
def slice (s : Bytes) (i j : Nat) : Bytes := (s.take j).drop i

/-- R25: `length = 0` with nothing present, or `length` counting `packNo` and the payload. -/
def Packet.wf (p : Packet) : Bool :=
  if p.length = 0 then decide (p.packNo = 0) && decide (p.payload = [])
  else decide (p.payload.length + 1 = p.length.toNat)

/-- What ENCODE accepts: R25's invariant but for the `packNo` that ENCODE does not read when `length = 0` (R26, R93, R99,
V10, V13; log entry 9). -/
def Packet.encodable (p : Packet) : Bool :=
  if p.length = 0 then decide (p.payload = [])
  else decide (p.payload.length + 1 = p.length.toNat)

/-- R90: the XOR-fold of a byte string. -/
def Codec.checksum (s : Bytes) : Byte := s.foldl (· ^^^ ·) 0

/-- R92, R60: the bytes before the checksum. `packNo` is not read when `length = 0` (R93). -/
def Codec.body (k : Constants) (p : Packet) : Bytes :=
  [k.magic1, k.magic2, p.command, p.length] ++ (if p.length = 0 then [] else p.packNo :: p.payload)

/-- R93: the body and its checksum. -/
def Codec.frame (k : Constants) (p : Packet) : Bytes :=
  Codec.body k p ++ [Codec.checksum (Codec.body k p)]

/-- R91, R93: ENCODE; `none` where the packet breaks the precondition (the caller refuses with ENC_MALFORMED). -/
def Codec.encode (k : Constants) (p : Packet) : Option Bytes :=
  if p.encodable then some (Codec.frame k p) else none

/-- R95, R96, R97: DECODE. Bytes after the checksum are not read. -/
def Codec.decode (k : Constants) (buf : Bytes) : Option Packet :=
  if buf.length < 5 then none
  else if byteAt buf 0 ≠ k.magic1 ∨ byteAt buf 1 ≠ k.magic2 then none
  else if byteAt buf 3 = 0 then
    if byteAt buf 4 = Codec.checksum (slice buf 0 4) then some ⟨byteAt buf 2, 0, 0, []⟩ else none
  else if buf.length < 5 + (byteAt buf 3).toNat then none
  else if byteAt buf (4 + (byteAt buf 3).toNat) = Codec.checksum (slice buf 0 (4 + (byteAt buf 3).toNat)) then
    some ⟨byteAt buf 2, byteAt buf 3, byteAt buf 4, slice buf 5 (4 + (byteAt buf 3).toNat)⟩
  else none

/-- R115: the packet of the block's ACK reply. -/
def ackPacket (k : Constants) : Packet := ⟨k.cmdAck, 0, 0, []⟩

/-- R115: `BARE_ACK`. -/
def bareAck (k : Constants) : Bytes := Codec.frame k (ackPacket k)

/-- R124: the confirmation, payload `[0x01, 0x00, row, col]`, `length` 5. -/
def confirmation (k : Constants) (packNo row col : Byte) : Packet :=
  ⟨k.cmdConfirm, 5, packNo, [0x01, 0x00, row, col]⟩

/-- R141: the packet QueueCommand builds. -/
def hostPacket (commandType packNo : Byte) (payload : Bytes) : Packet :=
  ⟨commandType, BitVec.ofNat 8 (1 + payload.length), packNo, payload⟩

end Sys2Proof
end

