-- ==== Sys2Proof/WellFormed.lean ====
section
/-! DEFINITION. Which terms of `Instr` are instructions of the opcode table. -/

namespace Sys2Proof

/-- R68: the code selects none of the four dispatch rules. -/
def Constants.isOther (k : Constants) (command : Byte) : Bool :=
  command != k.cmdPoll && command != k.cmdAck && command != k.cmdStatus && command != k.cmdReport

/-- The shape of a confirmation (R65): such a frame is TX_CONFIRM's, whatever built it (log entry 18). -/
def Constants.confirmShape (k : Constants) (command : Byte) (payload : Bytes) : Bool :=
  command == k.cmdConfirm &&
  match payload with
  | [a, b, _, _] => a == 0x01 && b == 0x00
  | _ => false

/-- A received frame carries a well-formed packet (R94) whose command selects its row (R68); RX_INVALID carries a buffer
that does not decode; TX_COMMAND carries what HOST_ENQ accepts (R140): a payload of 1..254 bytes. DESIGN CHOICE: the packNo
of TX_COMMAND and TX_CONFIRM is any byte, 0x00 included (log entry 19). -/
def Instr.wf (k : Constants) : Instr → Bool
  | .poll p => p.wf && p.command == k.cmdPoll
  | .ack p => p.wf && p.command == k.cmdAck
  | .status p => p.wf && p.command == k.cmdStatus
  | .report p => p.wf && p.command == k.cmdReport
  | .other p => p.wf && k.isOther p.command
  | .rxInvalid buf => (Codec.decode k buf).isNone
  | .rxFrame _ => true
  | .hostEnq _ _ => true
  | .disconnect => true
  | .reset => true
  | .codecChecksum _ => true
  | .codecEncode _ => true
  | .codecDecode _ => true
  | .txAck => true
  | .txCommand command _ payload =>
      decide (1 ≤ payload.length) && decide (payload.length ≤ maxPayload) && !k.confirmShape command payload
  | .txConfirm _ _ _ => true

end Sys2Proof
end

