-- ==== Sys2Proof/Decode.lean ====
section
/-! DEFINITION. From a request to an instruction, total and rejecting by name; the encoder; and the words of
spec/opcode_table.json as the host numbers them. -/

namespace Sys2Proof

/-- Why a request is no instruction. -/
inductive DecodeError where
  /-- port HOST_ENQ without its `commandType` byte (R73) -/
  | enqNoCommandType
  /-- port DISCONNECT or RESET with data: they "carry no data" (R74) -/
  | portCarriesData
  /-- CODEC_ENCODE without the three bytes of a packet record (R25) -/
  | encodeNoPacket
  /-- a tx request that is not exactly one frame (R60, R61) -/
  | txNotOneFrame
  /-- a frame the block never builds: no payload, and not the bare ACK (R76, R142) -/
  | txNoPayload
  deriving DecidableEq, Repr

/-- The four input ports (R72 to R74) by the 2-bit code of the opcode table. -/
def decodePort (code : BitVec 2) (data : Bytes) : Except DecodeError Instr :=
  if code = 0 then .ok (.rxFrame data)
  else if code = 1 then
    match data with
    | [] => .error .enqNoCommandType
    | c :: payload => .ok (.hostEnq c payload)
  else
    match data with
    | [] => .ok (if code = 2 then .disconnect else .reset)
    | _ :: _ => .error .portCarriesData

/-- R68: the row a decoded packet selects, `command` compared in full. -/
def classify (k : Constants) (p : Packet) : Instr :=
  if p.command = k.cmdPoll then .poll p
  else if p.command = k.cmdAck then .ack p
  else if p.command = k.cmdStatus then .status p
  else if p.command = k.cmdReport then .report p
  else .other p

/-- R110: a received buffer is a frame or RX_INVALID. -/
def decodeRx (k : Constants) (buf : Bytes) : Instr :=
  match Codec.decode k buf with
  | none => .rxInvalid buf
  | some p => classify k p

/-- A codec call: CHECKSUM and DECODE take the bytes, ENCODE the record `command, length, packNo, payload` (R25). -/
def decodeFn (f : CodecFn) (data : Bytes) : Except DecodeError Instr :=
  match f, data with
  | .checksum, _ => .ok (.codecChecksum data)
  | .decode, _ => .ok (.codecDecode data)
  | .encode, command :: length :: packNo :: payload => .ok (.codecEncode ⟨command, length, packNo, payload⟩)
  | .encode, _ => .error .encodeNoPacket

/-- R76: an emitted frame is the bare ACK, a confirmation or a host command. DESIGN CHOICE: packNo may be any byte, 0x00
included, although the block builds only 1..255 (R64, R71; log entry 19). -/
def classifyTx (k : Constants) (p : Packet) : Except DecodeError Instr :=
  if p.payload = [] then
    if p.length = 0 ∧ p.command = k.cmdAck then .ok .txAck else .error .txNoPayload
  else if k.confirmShape p.command p.payload then
    .ok (.txConfirm p.packNo (byteAt p.payload 2) (byteAt p.payload 3))
  else .ok (.txCommand p.command p.packNo p.payload)

/-- An emitted frame is exactly `5 + length` bytes (R61). -/
def decodeTx (k : Constants) (frame : Bytes) : Except DecodeError Instr :=
  match Codec.decode k frame with
  | none => .error .txNotOneFrame
  | some p => if frame.length = 5 + p.length.toNat then classifyTx k p else .error .txNotOneFrame

/-- The decoder. -/
def decode (k : Constants) : Request → Except DecodeError Instr
  | .port code data => decodePort code data
  | .rx buf => .ok (decodeRx k buf)
  | .fn f data => decodeFn f data
  | .tx frame => decodeTx k frame

/-- The encoder: R60 for frames, the port codes of the opcode table for transactions. -/
def encode (k : Constants) : Instr → Request
  | .poll p => .rx (Codec.frame k p)
  | .ack p => .rx (Codec.frame k p)
  | .status p => .rx (Codec.frame k p)
  | .report p => .rx (Codec.frame k p)
  | .other p => .rx (Codec.frame k p)
  | .rxInvalid buf => .rx buf
  | .rxFrame buf => .port 0 buf
  | .hostEnq c payload => .port 1 (c :: payload)
  | .disconnect => .port 2 []
  | .reset => .port 3 []
  | .codecChecksum bs => .fn .checksum bs
  | .codecEncode p => .fn .encode (p.command :: p.length :: p.packNo :: p.payload)
  | .codecDecode buf => .fn .decode buf
  | .txAck => .tx (bareAck k)
  | .txCommand c n payload => .tx (Codec.frame k (hostPacket c n payload))
  | .txConfirm n row col => .tx (Codec.frame k (confirmation k n row col))

/-- The low `n` bytes of `w`, the least significant first. -/
def bytesOf : Nat → Nat → Bytes
  | 0, _ => []
  | n + 1, w => BitVec.ofNat 8 w :: bytesOf n (w / 256)

/-- The frame with a command byte and every later operand byte zero (`length = 0`). -/
def commandFrame (k : Constants) (command : Byte) : Bytes := Codec.frame k ⟨command, 0, 0, []⟩

/-- A word of the opcode table as a request (log entry 3). The table numbers four formats in one space and a word does
not say its format: a word of at most 2 bits is a port code; an 8-bit word is the command byte of a received frame where
that row fixes all eight bits (POLL, ACK, STATUS, REPORT), else the port code it equals (RX_FRAME, HOST_ENQ, RESET), else
TX_CONFIRM's command, else the command byte of OTHER; a longer word is a whole received buffer. Operand bytes are zero. -/
def tableRequest (k : Constants) (nbits w : Nat) : Request :=
  let b : Byte := BitVec.ofNat 8 w
  let portRequest : Request := .port (BitVec.ofNat 2 w) (if w % 4 = 1 then [0] else [])
  if nbits = 0 then .rx (commandFrame k 0)
  else if nbits ≤ 2 then portRequest
  else if 8 < nbits then .rx (bytesOf ((nbits + 7) / 8) w)
  else if !k.isOther b then .rx (commandFrame k b)
  else if b.toNat < 4 then portRequest
  else if b = k.cmdConfirm then .tx (Codec.frame k (confirmation k 0 0 0))
  else .rx (commandFrame k b)

/-- The instruction the decoder reads from a word of the opcode table, under VMT's constants. -/
def decodeTableWord (nbits w : Nat) : Option Instr :=
  (decode Constants.vmt (tableRequest Constants.vmt nbits w)).toOption

end Sys2Proof
end

