-- ==== Sys2Proof/Machine/State.lean ====
section
/-! DEFINITION. The state of the block (10_state.md R20) and of the model around it, the outcomes of a step that are no
next state, and the state after reset. -/

namespace Sys2Proof.Machine

/-- R23: the engine state. The code 0b11 is not a legal value and the type leaves it out (U2). -/
inductive EngineState where
  | idle
  | awaitAck
  | awaitData
  deriving DecidableEq, Repr

/-- R75: `kind` of a RESULT event. -/
inductive ResultKind where
  | check
  | release
  deriving DecidableEq, Repr

/-- R161: the log codes by name. -/
inductive LogCode where
  | frameInvalid
  | unexpectedAck
  | unknownCommand
  | enqEmptyPayload
  | enqPayloadTooLong
  | enqQueueFull
  | statusShortPayload
  | reportShortPayload
  | resultWithoutCommand
  deriving DecidableEq, Repr

/-- R75: an output event. -/
inductive Event where
  /-- hand a frame to the transport's `send` -/
  | tx (frame : Bytes)
  /-- `packetReceived(packet)` -/
  | pktRx (p : Packet)
  /-- `pollReceived(packet)` -/
  | pollRx (p : Packet)
  /-- the host callback -/
  | result (kind : ResultKind) (status row col packNo : Byte)
  /-- `log(message)` -/
  | log (code : LogCode)
  deriving DecidableEq, Repr

/-- R168: "The refusal reasons are exactly" these two. -/
inductive RefusalReason where
  /-- a received buffer longer than a finite RX_MAX -/
  | rxOversize
  /-- an ENCODE of a packet that is not well-formed -/
  | encMalformed
  deriving DecidableEq, Repr

/-- What a codec function returned. -/
inductive CodecValue where
  | checksum (value : Byte)
  | frame (bytes : Bytes)
  | packet (result : Option Packet)
  deriving DecidableEq, Repr

/-- The machine. `st`, `seq`, `q` and `refused` are the whole state the spec gives the block (R20); the other fields are
the model's own. -/
structure State where
  /-- the engine state (R23) -/
  st          : EngineState
  /-- the sequence-number counter (R27) -/
  seq         : Byte
  /-- the command queue, head first (R28) -/
  q           : List Packet
  /-- the refusal mark (R33) -/
  refused     : Bool
  /-- the configuration, which no step writes (log entry 4) -/
  cfg         : Config
  /-- the input transactions not yet taken, next one first (log entry 1) -/
  pending     : List Request
  /-- the output events emitted so far, oldest first (log entry 6) -/
  events      : List Event
  /-- what the last codec call returned (log entry 7) -/
  codecOut    : Option CodecValue
  /-- the reason of the latest refusal (log entry 8) -/
  lastRefusal : Option RefusalReason
  deriving DecidableEq, Repr

/-- The reasons a step can stop with a fault. -/
inductive Fault where
  /-- Raised by STATUS, and by a terminal REPORT, when `st` is not IDLE and the queue is empty: they need `QHead`, which is
  "defined only when the queue is non-empty" (R13). Safe: the model stops, and no run reaches such a state (R29, R36). -/
  | noInFlight
  deriving DecidableEq, Repr

/-- The reasons a step can be refused. -/
inductive Refusal where
  /-- Raised by an arm of `exec` whose instruction has no meaning yet. Safe: the model stops. -/
  | notModelled (mnemonic : String)
  /-- Raised by `step` when the pending request is no transaction (log entry 12). Safe: the model stops. -/
  | undecodable (e : DecodeError)
  deriving DecidableEq, Repr

/-- R181: the initial state of a run of a block configured as `c`. -/
def State.initial (c : Config) : State where
  st          := .idle
  seq         := c.seqInit
  q           := []
  refused     := false
  cfg         := c
  pending     := []
  events      := []
  codecOut    := none
  lastRefusal := none

/-- The machine right after reset, with the spec's default parameters (R34, R181; log entry 5). -/
def State.reset : State := State.initial Config.vmt

end Sys2Proof.Machine
end

