-- ==== Sys2Proof/Machine/Flags.lean ====
section
/-! DEFINITION. The two wait flags are views of `st` (10_state.md R24, 90_conflicts.md C6); the block computes no other
flag. -/

namespace Sys2Proof.Machine

/-- R24: `ack_wait = (st = AWAIT_ACK)`. -/
def State.ackWait (s : State) : Bool := decide (s.st = .awaitAck)

/-- R24: `data_wait = (st = AWAIT_DATA)`. -/
def State.dataWait (s : State) : Bool := decide (s.st = .awaitData)

/-- R116: the head becomes in-flight; sets `ack_wait`. -/
def State.setAckWait (s : State) : State := { s with st := .awaitAck }

/-- R24, R118: "Clear ack-wait" is the write `st <- AWAIT_DATA`. -/
def State.clearAckWait (s : State) : State := { s with st := .awaitData }

/-- R24: "clear both wait flags" is the write `st <- IDLE`. -/
def State.clearWaitFlags (s : State) : State := { s with st := .idle }

end Sys2Proof.Machine
end

