-- ==== Sys2Proof/Machine/Ops.lean ====
section
/-! DEFINITION. The named operations of the rules: the primitives of 00_scope.md R13 (queue, Emit, refuse), SeqAdvance and
Complete (41_dispatch.md R112, R113), the numeric codes of the events. The block has no exception entry and no return from
one (60_exceptions.md R163, R164). -/

namespace Sys2Proof.Machine

/-- R23: the bits of `st`. -/
def EngineState.code : EngineState → BitVec 2
  | .idle => 0b00
  | .awaitAck => 0b01
  | .awaitData => 0b10

/-- R23: the engine state a code stands for; 0b11 is not a legal value. -/
def EngineState.ofCode (c : BitVec 2) : Option EngineState :=
  if c = 0b00 then some .idle
  else if c = 0b01 then some .awaitAck
  else if c = 0b10 then some .awaitData
  else none

/-- R75: CHECK = 0, RELEASE = 1. -/
def ResultKind.code : ResultKind → Nat
  | .check => 0
  | .release => 1

/-- R161: the numeric log codes. -/
def LogCode.code : LogCode → Byte
  | .frameInvalid => 0x01
  | .unexpectedAck => 0x02
  | .unknownCommand => 0x03
  | .enqEmptyPayload => 0x04
  | .enqPayloadTooLong => 0x05
  | .enqQueueFull => 0x06
  | .statusShortPayload => 0x07
  | .reportShortPayload => 0x08
  | .resultWithoutCommand => 0x09

/-- R111: the place of an event in the order of a step. -/
def Event.rank : Event → Nat
  | .pktRx _ => 0
  | .pollRx _ => 1
  | .tx _ => 2
  | .result _ _ _ _ _ => 3
  | .log _ => 4

/-- The frames of the TX events, in emission order (R50). -/
def txFrames : List Event → List Bytes
  | [] => []
  | .tx f :: es => f :: txFrames es
  | .pktRx _ :: es => txFrames es
  | .pollRx _ :: es => txFrames es
  | .result _ _ _ _ _ :: es => txFrames es
  | .log _ :: es => txFrames es

/-- `Emit` (R13), for a list of events. -/
def State.emit (s : State) (es : List Event) : State := { s with events := s.events ++ es }

/-- `refuse` (R13, R168): the mark is set, the step does not happen, nothing is emitted. -/
def State.refuse (s : State) (reason : RefusalReason) : State :=
  { s with refused := true, lastRefusal := some reason }

/-- `QPush` (R13): append at the tail. -/
def qPush (q : List Packet) (p : Packet) : List Packet := q ++ [p]

/-- `QPop` (R13): the queue without its first element. -/
def qPop (q : List Packet) : List Packet := q.tail

/-- R29: the in-flight command, the head of the queue while `st` is not IDLE. -/
def State.inFlight (s : State) : Option Packet := if s.st = .idle then none else s.q.head?

/-- R113: increment by 1; a result of 0 is forced to 1. -/
def seqAdvance (v : Byte) : Byte := if v + 1 = 0 then 1 else v + 1

/-- R112: `Complete`: dequeue the in-flight command, clear both wait flags, advance the sequence number. -/
def State.complete (s : State) : State :=
  { s.clearWaitFlags with q := qPop s.q, seq := seqAdvance s.seq }

/-- R124: dequeue the in-flight command `c` and append its confirmation; `seq` is not advanced. -/
def State.chainConfirmation (s : State) (c : Packet) (row col : Byte) : State :=
  { s.clearWaitFlags with q := qPush (qPop s.q) (confirmation s.cfg.k c.packNo row col) }

/-- R28, R8: `n` packets do not exceed QDEPTH. -/
def queueFits (c : Config) (n : Nat) : Bool :=
  match c.qdepth with
  | none => true
  | some d => decide (n ≤ d)

/-- R143: QDEPTH is finite and the queue holds QDEPTH packets. -/
def queueFull (c : Config) (n : Nat) : Bool :=
  match c.qdepth with
  | none => false
  | some d => decide (n = d)

/-- R110: RX_MAX is finite and the buffer is longer. -/
def rxOversize (c : Config) (buf : Bytes) : Bool :=
  match c.rxMax with
  | none => false
  | some m => decide (m < buf.length)

/-- R93, R168: hand the frame of `p` to `send`, or refuse the transaction when `p` is not well-formed. `before` are the
events of the step that precede the TX; `after` is the write of the step. -/
def State.transmit (s : State) (before : List Event) (p : Packet) (after : State → State) : State :=
  match Codec.encode s.cfg.k p with
  | none => s.refuse .encMalformed
  | some f => after (s.emit (before ++ [.tx f]))

end Sys2Proof.Machine
end

