-- ==== Sys2Proof/Machine/CodecCalls.lean ====
section
/-! DEFINITION. The rows of format function (40_codec.md): a call of a codec function. It writes no state of the block; its
value stands in `codecOut` (log entry 7). -/

namespace Sys2Proof.Machine

/-- CODEC_CHECKSUM (R90). -/
def execCodecChecksum (bs : Bytes) (s : State) : Host.Outcome State Fault Refusal :=
  .next { s with codecOut := some (.checksum (Codec.checksum bs)) }

/-- CODEC_ENCODE (R91 to R93): the frame, or the refusal ENC_MALFORMED. -/
def execCodecEncode (p : Packet) (s : State) : Host.Outcome State Fault Refusal :=
  match Codec.encode s.cfg.k p with
  | none => .next (s.refuse .encMalformed)
  | some f => .next { s with codecOut := some (.frame f) }

/-- CODEC_DECODE (R94 to R98): total, "not an exception". -/
def execCodecDecode (buf : Bytes) (s : State) : Host.Outcome State Fault Refusal :=
  .next { s with codecOut := some (.packet (Codec.decode s.cfg.k buf)) }

end Sys2Proof.Machine
end

