-- ==== Sys2Proof/Machine/Operands.lean ====
section
/-! DEFINITION. The operands of a received STATUS or REPORT (30_encoding.md R65, R70): the only operand form of the block
beside whole fields of a packet. -/

namespace Sys2Proof.Machine

/-- `status = payload[0]`, `row = payload[1]`, `col = payload[2]` (R70). -/
structure SlotResult where
  status : Byte
  row    : Byte
  col    : Byte
  deriving DecidableEq, Repr

/-- R65: valid when `len(payload) ≥ 3`; bytes after offset 2 are ignored. -/
def slotResult : Bytes → Option SlotResult
  | status :: row :: col :: _ => some ⟨status, row, col⟩
  | [_, _] => none
  | [_] => none
  | [] => none

end Sys2Proof.Machine
end

