-- ==== Sys2Proof/Machine/Inbound.lean ====
section
/-! DEFINITION. The rows of format rx_frame and rx_buffer (41_dispatch.md): what a received frame does, from the PKT_RX
event of the receive step (R110) on. All writes of a step take effect together; the events come in the order of R111. -/

namespace Sys2Proof.Machine

/-- POLL (R116, R117): send the head of the queue and wait for its ACK, or answer with a bare ACK. A head that is not
well-formed (no run has one, R36) is refused by ENCODE (R91). -/
def execPoll (p : Packet) (s : State) : Host.Outcome State Fault Refusal :=
  match s.st, s.q with
  | .idle, c :: _ => .next (s.transmit [.pktRx p, .pollRx p] c State.setAckWait)
  | _, _ => .next (s.emit [.pktRx p, .pollRx p, .tx (bareAck s.cfg.k)])

/-- ACK (R118, R119). -/
def execAck (p : Packet) (s : State) : Host.Outcome State Fault Refusal :=
  if s.st = .awaitAck then .next (s.clearAckWait.emit [.pktRx p])
  else .next (s.emit [.pktRx p, .log .unexpectedAck])

/-- STATUS (R120 to R125): ACK first; then complete the in-flight command, or dequeue it and chain its confirmation. -/
def execStatus (p : Packet) (s : State) : Host.Outcome State Fault Refusal :=
  if s.st = .idle then
    .next (s.emit [.pktRx p, .tx (bareAck s.cfg.k), .log .resultWithoutCommand])
  else
    match s.q with
    | [] => .fault .noInFlight
    | c :: _ =>
      match slotResult p.payload with
      | none => .next (s.complete.emit [.pktRx p, .tx (bareAck s.cfg.k), .log .statusShortPayload])
      | some r =>
        let es := [.pktRx p, .tx (bareAck s.cfg.k), .result .check r.status r.row r.col c.packNo]
        if r.status = s.cfg.k.stOk then .next ((s.chainConfirmation c r.row r.col).emit es)
        else .next (s.complete.emit es)

/-- REPORT (R126 to R131): ACK first; a short payload and a progress report keep waiting, any other completes. -/
def execReport (p : Packet) (s : State) : Host.Outcome State Fault Refusal :=
  if s.st = .idle then
    .next (s.emit [.pktRx p, .tx (bareAck s.cfg.k), .log .resultWithoutCommand])
  else
    match slotResult p.payload with
    | none => .next (s.emit [.pktRx p, .tx (bareAck s.cfg.k), .log .reportShortPayload])
    | some r =>
      if r.status = s.cfg.k.stOk then .next (s.emit [.pktRx p, .tx (bareAck s.cfg.k)])
      else
        match s.q with
        | [] => .fault .noInFlight
        | c :: _ =>
          .next (s.complete.emit
            [.pktRx p, .tx (bareAck s.cfg.k), .result .release r.status r.row r.col c.packNo])

/-- OTHER (R132, R133). -/
def execOther (p : Packet) (s : State) : Host.Outcome State Fault Refusal :=
  .next (s.emit [.pktRx p, .tx (bareAck s.cfg.k), .log .unknownCommand])

/-- RX_INVALID (R110): the size check of the receive port, then the framing error: logged, nothing sent, no state change. -/
def execRxInvalid (buf : Bytes) (s : State) : Host.Outcome State Fault Refusal :=
  if rxOversize s.cfg buf then .next (s.refuse .rxOversize)
  else .next (s.emit [.log .frameInvalid])

end Sys2Proof.Machine
end

