-- ==== Sys2Proof/Machine/Ports.lean ====
section
/-! DEFINITION. The rows of format port: the four input transactions (10_state.md R30). -/

namespace Sys2Proof.Machine

/-- R110, R68: dispatch of a decoded packet by its `command`, in the order of the rule. -/
def dispatch (p : Packet) (s : State) : Host.Outcome State Fault Refusal :=
  if p.command = s.cfg.k.cmdPoll then execPoll p s
  else if p.command = s.cfg.k.cmdAck then execAck p s
  else if p.command = s.cfg.k.cmdStatus then execStatus p s
  else if p.command = s.cfg.k.cmdReport then execReport p s
  else execOther p s

/-- RX_FRAME (R110, STEP_RX): the size check, DECODE, dispatch. -/
def execRxFrame (buf : Bytes) (s : State) : Host.Outcome State Fault Refusal :=
  if rxOversize s.cfg buf then .next (s.refuse .rxOversize)
  else
    match Codec.decode s.cfg.k buf with
    | none => execRxInvalid buf s
    | some p => dispatch p s

/-- HOST_ENQ (R140 to R145): the three checks in order, then the packet at the tail, stamped with `seq`. -/
def execHostEnq (commandType : Byte) (payload : Bytes) (s : State) : Host.Outcome State Fault Refusal :=
  if payload.length = 0 then .next (s.emit [.log .enqEmptyPayload])
  else if maxPayload < payload.length then .next (s.emit [.log .enqPayloadTooLong])
  else if queueFull s.cfg s.q.length then .next (s.emit [.log .enqQueueFull])
  else .next { s with q := qPush s.q (hostPacket commandType s.seq payload) }

/-- DISCONNECT (R146, R147). -/
def execDisconnect (s : State) : Host.Outcome State Fault Refusal :=
  .next { s with
    st := .idle
    q := []
    seq := match s.cfg.seqOnDisconnect with | .keep => s.seq | .reinit => s.cfg.seqInit }

/-- RESET (R180): every field of the block but `refused`. -/
def execReset (s : State) : Host.Outcome State Fault Refusal :=
  .next { s with st := .idle, q := [], seq := s.cfg.seqInit }

end Sys2Proof.Machine
end

