-- ==== Sys2Proof/Machine/Transmit.lean ====
section
/-! DEFINITION. The rows of format tx_frame: the three frames the block emits (30_encoding.md R76), each as the TX event
alone (log entry 13). The step that decides to send, and its write of `st`, is POLL's (R116). -/

namespace Sys2Proof.Machine

/-- TX_ACK (R115). -/
def execTxAck (s : State) : Host.Outcome State Fault Refusal :=
  .next (s.emit [.tx (bareAck s.cfg.k)])

/-- TX_COMMAND (R116): the frame of a host-enqueued packet. -/
def execTxCommand (command packNo : Byte) (payload : Bytes) (s : State) : Host.Outcome State Fault Refusal :=
  .next (s.transmit [] (hostPacket command packNo payload) id)

/-- TX_CONFIRM (R124): the frame of a confirmation. -/
def execTxConfirm (packNo row col : Byte) (s : State) : Host.Outcome State Fault Refusal :=
  .next (s.transmit [] (confirmation s.cfg.k packNo row col) id)

end Sys2Proof.Machine
end

