-- ==== Sys2Proof/Machine/Dispatch.lean ====
section
/-! DEFINITION. One arm per constructor of `Instr`. -/

namespace Sys2Proof.Machine

def exec (i : Instr) (s : State) : Host.Outcome State Fault Refusal :=
  match i with
  | .poll p => Sys2Proof.Machine.execPoll p s
  | .ack p => Sys2Proof.Machine.execAck p s
  | .status p => Sys2Proof.Machine.execStatus p s
  | .report p => Sys2Proof.Machine.execReport p s
  | .other p => Sys2Proof.Machine.execOther p s
  | .rxInvalid buf => Sys2Proof.Machine.execRxInvalid buf s
  | .rxFrame buf => Sys2Proof.Machine.execRxFrame buf s
  | .hostEnq commandType payload => Sys2Proof.Machine.execHostEnq commandType payload s
  | .disconnect => Sys2Proof.Machine.execDisconnect s
  | .reset => Sys2Proof.Machine.execReset s
  | .codecChecksum bs => Sys2Proof.Machine.execCodecChecksum bs s
  | .codecEncode p => Sys2Proof.Machine.execCodecEncode p s
  | .codecDecode buf => Sys2Proof.Machine.execCodecDecode buf s
  | .txAck => Sys2Proof.Machine.execTxAck s
  | .txCommand command packNo payload => Sys2Proof.Machine.execTxCommand command packNo payload s
  | .txConfirm packNo row col => Sys2Proof.Machine.execTxConfirm packNo row col s

end Sys2Proof.Machine
end

