-- ==== Sys2Proof/Machine/Fetch.lean ====
section
/-! DEFINITION. Taking the next input transaction (00_scope.md R6, R7): the head of `pending`, decoded. -/

namespace Sys2Proof.Machine

/-- What stands next at the block's inputs. -/
inductive Fetched where
  /-- no transaction is pending -/
  | quiet
  /-- a request that is no transaction -/
  | bad (e : DecodeError)
  /-- an instruction, and the state with its request taken -/
  | taken (i : Instr) (s : State)
  deriving DecidableEq, Repr

/-- Take the head of `pending`. -/
def fetch (s : State) : Fetched :=
  match s.pending with
  | [] => .quiet
  | r :: rest =>
    match decode s.cfg.k r with
    | .error e => .bad e
    | .ok i => .taken i { s with pending := rest }

/-- Put a request where `fetch` takes its next one. -/
def State.putNext (s : State) (r : Request) : State := { s with pending := r :: s.pending }

end Sys2Proof.Machine
end

