-- ==== Sys2Proof/Machine/Step.lean ====
section
/-! DEFINITION. One step: take one input transaction and run it as one atomic action (00_scope.md R6). -/

namespace Sys2Proof.Machine

/-- R6: "Each step consumes exactly one input transaction". With none pending the block holds its state (R7, R176; log
entry 11). -/
def step (s : State) : Host.Outcome State Fault Refusal :=
  match fetch s with
  | .quiet => .next s
  | .bad e => .refused (.undecodable e)
  | .taken i t => exec i t

/-- The state in which the opcode table's word `w` is the next thing to run (log entry 3). -/
def State.withFetchWord (s : State) (nbits w : Nat) : State := s.putNext (tableRequest s.cfg.k nbits w)

end Sys2Proof.Machine
end

