-- ==== Sys2Proof/Safety.lean ====
section
/-! DEFINITION. What claims are stated in: the invariant of the reachable states (10_state.md R36), good runs (R33), the
requests an agent can issue (R7, R30), the frames on the wire, and a whole poll cycle of the VMC (70_reset_and_hazards.md
R192). -/

namespace Sys2Proof.Machine

/-- R36 (5): a packet that may stand in the queue. -/
abbrev Queueable (p : Packet) : Prop := p.wf = true ∧ 2 ≤ p.length.toNat ∧ p.packNo ≠ 0

/-- R36, (1) being the type of `st`; and the configuration is one R8 allows. -/
structure State.Inv (s : State) : Prop where
  cfgWf     : s.cfg.wf = true
  seqPos    : s.seq ≠ 0
  inFlight  : s.st ≠ .idle → s.q ≠ []
  fits      : queueFits s.cfg s.q.length = true
  queueable : ∀ p ∈ s.q, Queueable p

/-- R33: "A state with `refused = true` is never a good final state." -/
abbrev State.Good (s : State) : Prop := s.refused = false

/-- The transactions an agent of R7 can issue: those of the four input ports (R30). -/
def Request.isPort : Request → Bool
  | .port _ _ => true
  | .rx _ => false
  | .fn _ _ => false
  | .tx _ => false

/-- Nothing but port transactions is pending: a run of the block among its agents. -/
abbrev State.PortsOnly (s : State) : Prop := ∀ r ∈ s.pending, Request.isPort r = true

/-- Every frame sent so far is one frame DECODE accepts, of 5..260 bytes (R61, R75). -/
abbrev State.SentFramesDecode (s : State) : Prop :=
  ∀ f ∈ txFrames s.events, (Codec.decode s.cfg.k f).isSome = true ∧ 5 ≤ f.length ∧ f.length ≤ 260

/-- The row an instruction runs: an RX_FRAME transaction runs the row its buffer decodes to (R110). -/
def resolve (k : Constants) : Instr → Instr
  | .rxFrame buf => decodeRx k buf
  | i => i

/-- The events but for the notifications PKT_RX and POLL_RX, which repeat the received packet. -/
def effects (es : List Event) : List Event := es.filter (fun e => decide (2 ≤ e.rank))

/-- A result frame that ends the in-flight command without a confirmation: a short STATUS (R122), a STATUS or a REPORT
with a status other than ST_OK (R123, R130). -/
def endsCommand (k : Constants) (p : Packet) : Bool :=
  match slotResult p.payload with
  | none => p.command == k.cmdStatus
  | some r => (p.command == k.cmdStatus || p.command == k.cmdReport) && r.status != k.stOk

/-- Three buffers the VMC sends in one cycle. -/
structure PollCycle where
  poll   : Bytes
  ack    : Bytes
  result : Bytes
  deriving DecidableEq, Repr

/-- The buffer is accepted by the receive port and decodes to a packet with property `f`. -/
def receives (c : Config) (buf : Bytes) (f : Packet → Bool) : Bool :=
  !rxOversize c buf &&
  match Codec.decode c.k buf with
  | none => false
  | some p => f p

/-- R192: a cycle of POLL, ACK and a terminal STATUS or REPORT. -/
def PollCycle.completes (c : Config) (y : PollCycle) : Bool :=
  receives c y.poll (fun p => p.command == c.k.cmdPoll) &&
  receives c y.ack (fun p => p.command == c.k.cmdAck) &&
  receives c y.result (endsCommand c.k)

/-- The three receive transactions of a cycle. -/
def PollCycle.requests (y : PollCycle) : List Request := [.port 0 y.poll, .port 0 y.ack, .port 0 y.result]

/-- The frame with bit `b` of offset `i` flipped (R100). -/
def flipBit (f : Bytes) (i b : Nat) : Bytes := f.set i (byteAt f i ^^^ (1#8 <<< b))

end Sys2Proof.Machine
end

