-- ==== Sys2Proof/Certificates/Slice0/Obligations.lean ====
section
/-! DEFINITION. The statements for the provers. "Derived" in a docstring: the clause rests on a decision (D<n>) or an
inference the spec marks as its own, or on a log entry of the model. -/

open Sys2Proof Sys2Proof.Machine

/-! ### Configuration and reset -/

/-- The defaults of the configuration record (R9) and of the parameters (R8), the log codes (R161) and the RESULT kinds
(R75). Derived: D4, D5, D12, D17, D24; QDEPTH = ∞ at reset is the model's choice (log entry 5). -/
def Obligations.NumericConstantsAreTheSpecs : Prop :=
  Constants.vmt = ⟨0xFA, 0xFB, 0x41, 0x42, 0x01, 0x03, 0x02, 0x04, 0x06, 0x01⟩ ∧
  maxPayload = 254 ∧ Config.vmt.k = Constants.vmt ∧ Config.vmt.seqInit = 1 ∧ Config.vmt.seqOnDisconnect = .keep ∧
  Config.vmt.rxMax = none ∧ Config.vmt.qdepth = none ∧ Config.vmt.wf = true ∧
  ([.frameInvalid, .unexpectedAck, .unknownCommand, .enqEmptyPayload, .enqPayloadTooLong, .enqQueueFull,
    .statusShortPayload, .reportShortPayload, .resultWithoutCommand] : List LogCode).map LogCode.code =
    [0x01, 0x02, 0x03, 0x04, 0x05, 0x06, 0x07, 0x08, 0x09] ∧
  ResultKind.check.code = 0 ∧ ResultKind.release.code = 1

/-- The initial state (R34, R181): IDLE, SEQ_INIT, an empty queue, no refusal, whatever the configuration; `State.reset` is
that state with SEQ_INIT = 1. Derived: D4, D19; the empty model fields are log entries 1, 6, 7, 8. -/
def Obligations.InitialStateIsIdleAndEmpty : Prop :=
  (∀ c : Config, (State.initial c).st = .idle ∧ (State.initial c).seq = c.seqInit ∧ (State.initial c).q = [] ∧
    (State.initial c).refused = false ∧ (State.initial c).cfg = c ∧ (State.initial c).pending = [] ∧
    (State.initial c).events = [] ∧ (State.initial c).codecOut = none ∧ (State.initial c).lastRefusal = none) ∧
  State.reset = State.initial Config.vmt ∧ State.reset.seq = 1

/-- RESET from any state (R180): `st`, `q` and `seq` get their reset values; `refused` (R168) and the model's own fields
stay. Derived: D19. -/
def Obligations.ResetRestoresAllButRefused : Prop :=
  ∀ s : State, exec .reset s = .next { s with st := .idle, q := [], seq := s.cfg.seqInit }

/-! ### packet_codec -/

/-- CODEC_CHECKSUM returns the XOR-fold (R90) and writes nothing else; the fold's corner cases. Derived: R90 marks its
corner cases as derived; `codecOut` is log entry 7. -/
def Obligations.ChecksumIsTheXorFold : Prop :=
  (∀ (s : State) (bs : Bytes),
    exec (.codecChecksum bs) s = .next { s with codecOut := some (.checksum (bs.foldl (· ^^^ ·) 0)) }) ∧
  Codec.checksum [] = 0 ∧
  (∀ bs : Bytes, Codec.checksum (bs ++ [Codec.checksum bs]) = 0) ∧
  (∀ as bs : Bytes, as.Perm bs → Codec.checksum as = Codec.checksum bs) ∧
  (∀ (as bs cs : Bytes) (b : Byte),
    Codec.checksum (as ++ [b] ++ bs ++ [b] ++ cs) = Codec.checksum (as ++ bs ++ cs))

/-- R92: CODEC_ENCODE emits magic 1, magic 2, command, length; only if length > 0, packNo and payload; then one checksum
byte, the XOR of every byte emitted so far; at least 5 bytes, 5 when length = 0. The two magic bytes are 0xFA and 0xFB.
Derived: `encodable` also takes a length-0 packet with a stray packNo, which R91 with R25 (a) would refuse (log entry 9);
`codecOut` is log entry 7. -/
def Obligations.EncodeEmitsTheFrameLayout : Prop :=
  (∀ (s : State) (p : Packet), p.encodable = true → ∃ b f : Bytes,
    exec (.codecEncode p) s = .next { s with codecOut := some (.frame f) } ∧
    b = [s.cfg.k.magic1, s.cfg.k.magic2, p.command, p.length] ++
      (if 0 < p.length.toNat then p.packNo :: p.payload else []) ∧
    f = b ++ [b.foldl (· ^^^ ·) 0] ∧ f.length = 5 + p.length.toNat ∧ 5 ≤ f.length) ∧
  Constants.vmt.magic1 = 0xFA ∧ Constants.vmt.magic2 = 0xFB

/-- CODEC_ENCODE of a packet whose length byte does not match its payload is refused with ENC_MALFORMED: only the refusal
mark is written (R91, R168). Derived: D15; the next state is log entry 8, `encodable` log entry 9. -/
def Obligations.EncodeOfMalformedPacketIsRefused : Prop :=
  ∀ (s : State) (p : Packet), p.encodable = false →
    exec (.codecEncode p) s = .next { s with refused := true, lastRefusal := some .encMalformed }

/-- R95, with R96's absent fields as in its pseudocode: CODEC_DECODE returns `none` exactly when one of the four checks
fails, and otherwise the fields at their offsets; the magic bytes are 0xFA, 0xFB; the rule's two worked examples. -/
def Obligations.DecodeChecksAndReadsTheFrame : Prop :=
  (∀ (s : State) (buf : Bytes), ∃ r : Option Packet,
    exec (.codecDecode buf) s = .next { s with codecOut := some (.packet r) } ∧
    (r = none ↔
      buf.length < 5 ∨ (buf[0]? ≠ some s.cfg.k.magic1 ∨ buf[1]? ≠ some s.cfg.k.magic2) ∨
      (0 < (byteAt buf 3).toNat ∧ buf.length < 5 + (byteAt buf 3).toNat) ∨
      buf[4 + (byteAt buf 3).toNat]? ≠ some ((slice buf 0 (4 + (byteAt buf 3).toNat)).foldl (· ^^^ ·) 0)) ∧
    (∀ p, r = some p → buf[2]? = some p.command ∧ buf[3]? = some p.length ∧
      ((byteAt buf 3).toNat = 0 → p.packNo = 0 ∧ p.payload = []) ∧
      (0 < (byteAt buf 3).toNat →
        buf[4]? = some p.packNo ∧ p.payload = slice buf 5 (4 + (byteAt buf 3).toNat)))) ∧
  Constants.vmt.magic1 = 0xFA ∧ Constants.vmt.magic2 = 0xFB ∧
  Codec.decode Constants.vmt [0xFA, 0xFB, 0x01, 0x03, 0x01, 0x05, 0x03, 0x04] = some ⟨0x01, 3, 1, [0x05, 0x03]⟩ ∧
  Codec.decode Constants.vmt [0xFA, 0xFB, 0x41, 0x00] = none

/-- R101: every buffer shorter than 5 bytes, and every buffer whose first two bytes are not FA FB whatever its length,
decodes to `none`. -/
def Obligations.ShortOrUnmarkedBuffersDoNotDecode : Prop :=
  (∀ (s : State) (buf : Bytes), buf.length < 5 →
    exec (.codecDecode buf) s = .next { s with codecOut := some (.packet none) }) ∧
  (∀ (s : State) (buf : Bytes), s.cfg.k = Constants.vmt → buf.take 2 ≠ [0xFA, 0xFB] →
    exec (.codecDecode buf) s = .next { s with codecOut := some (.packet none) })

/-- R97: bytes after the checksum are not read. Derived: D28. -/
def Obligations.BytesAfterTheChecksumAreNotRead : Prop :=
  ∀ (k : Constants) (buf : Bytes), 5 + (byteAt buf 3).toNat ≤ buf.length →
    Codec.decode k buf = Codec.decode k (buf.take (5 + (byteAt buf 3).toNat))

/-- R99, forward: DECODE of ENCODE gives every well-formed packet back, and a packet of length 0 with an unused packNo
comes back with packNo 0. Derived: the spec marks the second clause as derived. -/
def Obligations.DecodeOfEncodeIsThePacket : Prop :=
  (∀ (k : Constants) (p : Packet), p.wf = true →
    ∃ f, Codec.encode k p = some f ∧ Codec.decode k f = some p) ∧
  (∀ (k : Constants) (p : Packet), p.length = 0 → p.payload = [] →
    ∃ f, Codec.encode k p = some f ∧ Codec.decode k f = some { p with packNo := 0 })

/-- R99, converse: ENCODE of what DECODE returns is the start of the buffer. Derived: so marked in R99. -/
def Obligations.EncodeOfDecodedIsTheBufferStart : Prop :=
  ∀ (k : Constants) (buf : Bytes) (p : Packet), Codec.decode k buf = some p →
    p.wf = true ∧ Codec.encode k p = some (buf.take (5 + p.length.toNat))

/-- R100: a single flipped bit makes DECODE fail at every offset but the length byte; at the length byte it fails when the
length grows, and when it shrinks the buffer decodes exactly if the byte at the new checksum offset matches. Derived: R100
marks the cases as derived. -/
def Obligations.SingleBitFlipsAreDetected : Prop :=
  ∀ (k : Constants) (p : Packet) (i b : Nat), p.wf = true → i < (Codec.frame k p).length → b < 8 →
    (i ≠ 3 → Codec.decode k (flipBit (Codec.frame k p) i b) = none) ∧
    (i = 3 →
      (p.length.toNat < (byteAt (flipBit (Codec.frame k p) i b) 3).toNat →
        Codec.decode k (flipBit (Codec.frame k p) i b) = none) ∧
      ((byteAt (flipBit (Codec.frame k p) i b) 3).toNat < p.length.toNat →
        ((Codec.decode k (flipBit (Codec.frame k p) i b)).isSome = true ↔
          (flipBit (Codec.frame k p) i b)[4 + (byteAt (flipBit (Codec.frame k p) i b) 3).toNat]? =
            some (Codec.checksum ((flipBit (Codec.frame k p) i b).take
              (4 + (byteAt (flipBit (Codec.frame k p) i b) 3).toNat))))))

/-- R188: a proper prefix of a frame does not decode, so a frame split over two buffers starts with a framing error.
Derived: so marked in R188. -/
def Obligations.ProperPrefixesOfAFrameDoNotDecode : Prop :=
  ∀ (k : Constants) (p : Packet) (n : Nat), p.wf = true → n < (Codec.frame k p).length →
    Codec.decode k ((Codec.frame k p).take n) = none

/-! ### The receive step -/

/-- R110, R68: a buffer within RX_MAX that decodes runs the row its command selects; VMT's codes are 0x41, 0x42, 0x02,
0x04. Derived: D17; that the rows begin with PKT_RX is log entry 14. -/
def Obligations.RxFrameRunsTheRowOfTheCommand : Prop :=
  (∀ (s : State) (buf : Bytes) (p : Packet), rxOversize s.cfg buf = false → Codec.decode s.cfg.k buf = some p →
    (p.command = s.cfg.k.cmdPoll → exec (.rxFrame buf) s = exec (.poll p) s) ∧
    (p.command = s.cfg.k.cmdAck → s.cfg.k.distinct = true → exec (.rxFrame buf) s = exec (.ack p) s) ∧
    (p.command = s.cfg.k.cmdStatus → s.cfg.k.distinct = true → exec (.rxFrame buf) s = exec (.status p) s) ∧
    (p.command = s.cfg.k.cmdReport → s.cfg.k.distinct = true → exec (.rxFrame buf) s = exec (.report p) s) ∧
    (s.cfg.k.isOther p.command = true → exec (.rxFrame buf) s = exec (.other p) s)) ∧
  Constants.vmt.cmdPoll = 0x41 ∧ Constants.vmt.cmdAck = 0x42 ∧ Constants.vmt.cmdStatus = 0x02 ∧
  Constants.vmt.cmdReport = 0x04

/-- R110, R160: a buffer within RX_MAX that does not decode only emits LOG(FRAME_INVALID), as RX_FRAME and as RX_INVALID.
Derived: D12, D17. -/
def Obligations.FramingErrorIsOnlyLogged : Prop :=
  ∀ (s : State) (buf : Bytes), rxOversize s.cfg buf = false → Codec.decode s.cfg.k buf = none →
    exec (.rxFrame buf) s = .next { s with events := s.events ++ [.log .frameInvalid] } ∧
    exec (.rxInvalid buf) s = .next { s with events := s.events ++ [.log .frameInvalid] }

/-- R110, R168: a buffer longer than a finite RX_MAX is refused: only the refusal mark is written. Derived: D15, D17, log
entry 8. -/
def Obligations.OversizeBufferIsRefused : Prop :=
  ∀ (s : State) (buf : Bytes) (m : Nat), s.cfg.rxMax = some m → m < buf.length →
    exec (.rxFrame buf) s = .next { s with refused := true, lastRefusal := some .rxOversize } ∧
    exec (.rxInvalid buf) s = .next { s with refused := true, lastRefusal := some .rxOversize }

/-- R116, first branch: in IDLE with a non-empty queue POLL sends the head's frame and waits for its ACK; the head stays
in the queue. Derived: D13, D20 (the notifications and their order). -/
def Obligations.PollSendsTheQueueHead : Prop :=
  ∀ (s : State) (p c : Packet) (rest : List Packet), s.st = .idle → s.q = c :: rest → c.encodable = true →
    exec (.poll p) s = .next { s with
      st := .awaitAck
      events := s.events ++ [.pktRx p, .pollRx p, .tx (Codec.frame s.cfg.k c)] }

/-- R116, second branch, R117: a POLL with a command in flight or an empty queue is answered with a bare ACK and changes
nothing. Derived: D7, D13, D20. -/
def Obligations.PollOtherwiseIsAHeartbeat : Prop :=
  ∀ (s : State) (p : Packet), s.st ≠ .idle ∨ s.q = [] →
    exec (.poll p) s = .next { s with
      events := s.events ++ [.pktRx p, .pollRx p, .tx (Codec.frame s.cfg.k ⟨s.cfg.k.cmdAck, 0, 0, []⟩)] }

/-- R91, R168: a POLL whose head cannot be encoded is refused with ENC_MALFORMED (no run reaches it, R36). Derived: D15,
log entry 8. -/
def Obligations.PollOfAMalformedHeadIsRefused : Prop :=
  ∀ (s : State) (p c : Packet) (rest : List Packet), s.st = .idle → s.q = c :: rest → c.encodable = false →
    exec (.poll p) s = .next { s with refused := true, lastRefusal := some .encMalformed }

/-- ACK with its whole event list (R118, R119). Derived: D12, D13. -/
def Obligations.AckEventsAndState : Prop :=
  ∀ (s : State) (p : Packet),
    (s.st = .awaitAck → exec (.ack p) s = .next { s with st := .awaitData, events := s.events ++ [.pktRx p] }) ∧
    (s.st ≠ .awaitAck →
      exec (.ack p) s = .next { s with events := s.events ++ [.pktRx p, .log .unexpectedAck] })

/-- R118: in AWAIT_ACK an ACK moves to AWAIT_DATA (ack_wait cleared, data_wait set); otherwise it logs UNEXPECTED_ACK and
changes nothing. Neither branch transmits. -/
def Obligations.AckClearsAckWait : Prop :=
  ∀ (s : State) (p : Packet), ∃ (t : State) (es : List Event), exec (.ack p) s = .next t ∧
    t.events = s.events ++ es ∧ txFrames es = [] ∧
    t.seq = s.seq ∧ t.q = s.q ∧ t.refused = s.refused ∧
    (s.st = .awaitAck → t.st = .awaitData ∧ t.ackWait = false ∧ t.dataWait = true ∧
      ∀ code, Event.log code ∉ es) ∧
    (s.st ≠ .awaitAck → t.st = s.st ∧ Event.log .unexpectedAck ∈ es)

/-- R121: a STATUS with no command in flight is acknowledged, logged and changes nothing. Derived: D8. -/
def Obligations.StatusWithoutCommandChangesNothing : Prop :=
  ∀ (s : State) (p : Packet), s.st = .idle →
    exec (.status p) s = .next { s with
      events := s.events ++ [.pktRx p, .tx (bareAck s.cfg.k), .log .resultWithoutCommand] }

/-- R122: a STATUS with fewer than three payload bytes completes the in-flight command, logs and emits no RESULT.
Derived: D9, D12, D23. -/
def Obligations.ShortStatusCompletesTheCommand : Prop :=
  ∀ (s : State) (p c : Packet) (rest : List Packet), s.st ≠ .idle → s.q = c :: rest → p.payload.length < 3 →
    exec (.status p) s = .next { s with
      st := .idle, q := rest, seq := seqAdvance s.seq
      events := s.events ++ [.pktRx p, .tx (bareAck s.cfg.k), .log .statusShortPayload] }

/-- R124: a STATUS with status ST_OK dequeues the in-flight command without advancing `seq` and appends its confirmation,
`[0x01, 0x00, row, col]` at the command's packNo; the queue keeps its length. Derived: D9, D23, D29. -/
def Obligations.StatusOkChainsAConfirmation : Prop :=
  ∀ (s : State) (p c : Packet) (rest : List Packet) (row col : Byte) (more : Bytes),
    s.st ≠ .idle → s.q = c :: rest → p.payload = s.cfg.k.stOk :: row :: col :: more →
    exec (.status p) s = .next { s with
      st := .idle
      q := rest ++ [⟨s.cfg.k.cmdConfirm, 5, c.packNo, [0x01, 0x00, row, col]⟩]
      events := s.events ++
        [.pktRx p, .tx (bareAck s.cfg.k), .result .check s.cfg.k.stOk row col c.packNo] } ∧
    (rest ++ [confirmation s.cfg.k c.packNo row col]).length = s.q.length

/-- R120, R123: a STATUS with another status completes the in-flight command and reports CHECK. Derived: D9, D23. -/
def Obligations.StatusFailureReportsAndCompletes : Prop :=
  ∀ (s : State) (p c : Packet) (rest : List Packet) (status row col : Byte) (more : Bytes),
    s.st ≠ .idle → s.q = c :: rest → p.payload = status :: row :: col :: more → status ≠ s.cfg.k.stOk →
    exec (.status p) s = .next { s with
      st := .idle, q := rest, seq := seqAdvance s.seq
      events := s.events ++
        [.pktRx p, .tx (bareAck s.cfg.k), .result .check status row col c.packNo] }

/-- R123: STATUS with status ≠ 0x01 is terminal: the block dequeues, clears the flags and advances the sequence number,
with no follow-up command. Derived: D9 (AWAIT_ACK is taken as AWAIT_DATA, R120, R125). -/
def Obligations.StatusFailureIsTerminal : Prop :=
  Constants.vmt.stOk = 0x01 ∧
  ∀ (s : State) (p c : Packet) (rest : List Packet) (status row col : Byte) (more : Bytes),
    s.st ≠ .idle → s.q = c :: rest → p.payload = status :: row :: col :: more → status ≠ s.cfg.k.stOk →
    ∃ t, exec (.status p) s = .next t ∧ t.q = rest ∧ t.st = .idle ∧ t.ackWait = false ∧ t.dataWait = false ∧
      t.seq = (if s.seq = 255 then 1 else s.seq + 1) ∧ t.refused = s.refused ∧ t.cfg = s.cfg

/-- R126 to R129: the REPORTs that complete nothing: with no command in flight, with a short payload, or progress.
Derived: D8, D9, D12. -/
def Obligations.ReportThatKeepsWaitingChangesNothing : Prop :=
  ∀ (s : State) (p : Packet),
    (s.st = .idle → exec (.report p) s = .next { s with
      events := s.events ++ [.pktRx p, .tx (bareAck s.cfg.k), .log .resultWithoutCommand] }) ∧
    (s.st ≠ .idle → p.payload.length < 3 → exec (.report p) s = .next { s with
      events := s.events ++ [.pktRx p, .tx (bareAck s.cfg.k), .log .reportShortPayload] }) ∧
    (∀ (row col : Byte) (more : Bytes), s.st ≠ .idle → p.payload = s.cfg.k.stOk :: row :: col :: more →
      exec (.report p) s = .next { s with events := s.events ++ [.pktRx p, .tx (bareAck s.cfg.k)] })

/-- R126, R130: a REPORT with another status completes the in-flight command and reports RELEASE. Derived: D9, D23. -/
def Obligations.TerminalReportReportsAndCompletes : Prop :=
  ∀ (s : State) (p c : Packet) (rest : List Packet) (status row col : Byte) (more : Bytes),
    s.st ≠ .idle → s.q = c :: rest → p.payload = status :: row :: col :: more → status ≠ s.cfg.k.stOk →
    exec (.report p) s = .next { s with
      st := .idle, q := rest, seq := seqAdvance s.seq
      events := s.events ++
        [.pktRx p, .tx (bareAck s.cfg.k), .result .release status row col c.packNo] }

/-- R129, R130: a REPORT with status 0x01 is acknowledged and keeps the command waiting; with any other status it is
terminal: dequeue, clear the flags, advance the sequence number, emit RESULT(RELEASE). Derived: D9 (AWAIT_ACK is taken as
AWAIT_DATA, R126, R131), D23 (the RESULT event and its packNo, the command's). -/
def Obligations.ReportIsProgressOrTerminal : Prop :=
  Constants.vmt.stOk = 0x01 ∧
  ∀ (s : State) (p : Packet) (status row col : Byte) (more : Bytes),
    s.st ≠ .idle → p.payload = status :: row :: col :: more →
    (status = s.cfg.k.stOk → ∃ t es, exec (.report p) s = .next t ∧ t.events = s.events ++ es ∧
      txFrames es = [bareAck s.cfg.k] ∧ (∀ e ∈ es, e.rank ≤ 2) ∧
      t.st = s.st ∧ t.q = s.q ∧ t.seq = s.seq ∧ t.refused = s.refused) ∧
    (∀ (c : Packet) (rest : List Packet), status ≠ s.cfg.k.stOk → s.q = c :: rest →
      ∃ t es, exec (.report p) s = .next t ∧ t.events = s.events ++ es ∧
        Event.result .release status row col c.packNo ∈ es ∧
        t.q = rest ∧ t.st = .idle ∧ t.ackWait = false ∧ t.dataWait = false ∧
        t.seq = (if s.seq = 255 then 1 else s.seq + 1) ∧ t.refused = s.refused)

/-- STATUS, and a terminal REPORT, stop with `noInFlight` when a command should be in flight and the queue is empty: QHead
is "defined only when the queue is non-empty" (R13). Derived: log entry 10. -/
def Obligations.ResultWithoutQueueHeadStops : Prop :=
  ∀ (s : State) (p : Packet), s.st ≠ .idle → s.q = [] →
    exec (.status p) s = .fault .noInFlight ∧
    (∀ (status row col : Byte) (more : Bytes), p.payload = status :: row :: col :: more → status ≠ s.cfg.k.stOk →
      exec (.report p) s = .fault .noInFlight)

/-- OTHER with its whole event list (R132, R133). Derived: D12, D13. -/
def Obligations.OtherCommandEventsAndState : Prop :=
  ∀ (s : State) (p : Packet), exec (.other p) s = .next { s with
    events := s.events ++ [.pktRx p, .tx (bareAck s.cfg.k), .log .unknownCommand] }

/-- R132: every command other than 0x41, 0x42, 0x02, 0x04, those the block itself sends included, is answered with a bare
ACK and logged as unknown; the state is unchanged, whatever it is. -/
def Obligations.UnknownCommandIsAcknowledged : Prop :=
  ∀ (s : State) (buf : Bytes) (p : Packet), s.cfg.k = Constants.vmt → rxOversize s.cfg buf = false →
    Codec.decode s.cfg.k buf = some p → p.command ∉ [0x41, 0x42, 0x02, 0x04] →
    exec (.rxFrame buf) s = exec (.other p) s ∧
    ∃ t es, exec (.other p) s = .next t ∧ t.events = s.events ++ es ∧
      txFrames es = [bareAck s.cfg.k] ∧ Event.log .unknownCommand ∈ es ∧
      t.st = s.st ∧ t.q = s.q ∧ t.seq = s.seq ∧ t.refused = s.refused

/-! ### Host operations -/

/-- R141: an accepted HOST_ENQ appends a packet built at the current sequence number, length 1 + len(payload), transmits
nothing and emits no event; nothing else changes. -/
def Obligations.HostEnqAppendsAtTheCurrentSequenceNumber : Prop :=
  ∀ (s : State) (commandType : Byte) (payload : Bytes), 1 ≤ payload.length → payload.length ≤ 254 →
    s.cfg.qdepth ≠ some s.q.length →
    ∃ n : Byte, n.toNat = 1 + payload.length ∧
      exec (.hostEnq commandType payload) s =
        .next { s with q := s.q ++ [⟨commandType, n, s.seq, payload⟩] }

/-- R142 to R144, R140: the rejections in their order; each logs its code and does nothing else. Derived: D6, D10, D12. -/
def Obligations.HostEnqRejectionsOnlyLog : Prop :=
  ∀ (s : State) (commandType : Byte) (payload : Bytes),
    (payload = [] → exec (.hostEnq commandType payload) s =
      .next { s with events := s.events ++ [.log .enqEmptyPayload] }) ∧
    (254 < payload.length → exec (.hostEnq commandType payload) s =
      .next { s with events := s.events ++ [.log .enqPayloadTooLong] }) ∧
    (1 ≤ payload.length → payload.length ≤ 254 → s.cfg.qdepth = some s.q.length →
      exec (.hostEnq commandType payload) s = .next { s with events := s.events ++ [.log .enqQueueFull] })

/-- R146, R147: DISCONNECT empties the queue and returns to IDLE, emits nothing, keeps `refused`; `seq` is kept or set to
SEQ_INIT as SEQ_ON_DISCONNECT says. Derived: D5. -/
def Obligations.DisconnectDiscardsTheQueue : Prop :=
  ∀ s : State,
    (s.cfg.seqOnDisconnect = .keep → exec .disconnect s = .next { s with st := .idle, q := [] }) ∧
    (s.cfg.seqOnDisconnect = .reinit →
      exec .disconnect s = .next { s with st := .idle, q := [], seq := s.cfg.seqInit })

/-- R182: DISCONNECT and RESET write the same state under REINIT, and under KEEP differ only in `seq`. Derived: so marked
in R182. -/
def Obligations.DisconnectDiffersFromResetOnlyInSeq : Prop :=
  ∀ s : State,
    (s.cfg.seqOnDisconnect = .reinit → exec .disconnect s = exec .reset s) ∧
    (∃ t u, exec .disconnect s = .next t ∧ exec .reset s = .next u ∧ u = { t with seq := s.cfg.seqInit })

/-! ### Emitted frames -/

/-- R115, R116, R124, R60: the three frames the block emits, byte by byte, and what the rows TX_ACK, TX_COMMAND, TX_CONFIRM
do: one TX event and nothing else; a payload that cannot be framed is refused. Derived: D7, D15, log entries 13, 19. -/
def Obligations.TransmitRowsEmitOneFrame : Prop :=
  ∀ s : State,
    exec .txAck s = .next { s with events := s.events ++ [.tx (Codec.frame s.cfg.k ⟨s.cfg.k.cmdAck, 0, 0, []⟩)] } ∧
    (∀ (command packNo : Byte) (payload : Bytes), payload.length ≤ 254 →
      ∃ n : Byte, n.toNat = 1 + payload.length ∧
        exec (.txCommand command packNo payload) s =
          .next { s with events := s.events ++ [.tx (Codec.frame s.cfg.k ⟨command, n, packNo, payload⟩)] }) ∧
    (∀ (command packNo : Byte) (payload : Bytes), 254 < payload.length →
      exec (.txCommand command packNo payload) s =
        .next { s with refused := true, lastRefusal := some .encMalformed }) ∧
    (∀ packNo row col : Byte,
      exec (.txConfirm packNo row col) s = .next { s with events := s.events ++
        [.tx (Codec.frame s.cfg.k ⟨s.cfg.k.cmdConfirm, 5, packNo, [0x01, 0x00, row, col]⟩)] }) ∧
    bareAck Constants.vmt = [0xFA, 0xFB, 0x42, 0x00, 0x43]

/-! ### Sequence number and flags -/

/-- R113: SeqAdvance increments by 1 modulo 256 and forces a result of 0 to 1. -/
def Obligations.SeqAdvanceSkipsZero : Prop :=
  ∀ v : Byte, seqAdvance v ≠ 0 ∧
    (seqAdvance v).toNat = (if (v.toNat + 1) % 256 = 0 then 1 else (v.toNat + 1) % 256)

/-- R114: from any value in 1..255, 255 successive advances return to it, and no fewer do. Derived: so marked in R114
(that no fewer do follows from R113). -/
def Obligations.SeqAdvanceReturnsAfter255 : Prop :=
  ∀ v : Byte, v ≠ 0 → seqAdvance^[255] v = v ∧ ∀ n, 0 < n → n < 255 → seqAdvance^[n] v ≠ v

/-- R23, R24, R29: the wait flags are views of `st`, never both true; the in-flight command is the head of the queue while
`st` is not IDLE; the codes of `st`, 0b11 being none. Derived: D2, D3. -/
def Obligations.WaitFlagsAreViewsOfTheEngineState : Prop :=
  (∀ s : State, (s.ackWait = true ↔ s.st = .awaitAck) ∧ (s.dataWait = true ↔ s.st = .awaitData) ∧
    ¬(s.ackWait = true ∧ s.dataWait = true) ∧
    s.setAckWait.ackWait = true ∧ s.clearAckWait.dataWait = true ∧
    s.clearWaitFlags.st = .idle ∧
    (s.st = .idle → s.inFlight = none) ∧
    (∀ c rest, s.st ≠ .idle → s.q = c :: rest → s.inFlight = some c)) ∧
  (∀ e : EngineState, EngineState.ofCode e.code = some e) ∧ EngineState.ofCode 0b11 = none

/-! ### Decoding, encoding and the step -/

/-- Words written out from the spec's encodings (R60, R62, the port codes of the opcode table, V9 to V20) decode to the
instruction they stand for. Derived: the layout of a request is log entries 2, 3 and 12. -/
def Obligations.SpecWordsDecode : Prop :=
  decode Constants.vmt (.rx [0xFA, 0xFB, 0x41, 0x00, 0x40]) = .ok (.poll ⟨0x41, 0, 0, []⟩) ∧
  decode Constants.vmt (.rx [0xFA, 0xFB, 0x02, 0x04, 0x07, 0x01, 0x02, 0x04, 0x07]) =
    .ok (.status ⟨0x02, 4, 7, [0x01, 0x02, 0x04]⟩) ∧
  decode Constants.vmt (.rx [0xFA, 0xFB, 0x99, 0x00, 0x98]) = .ok (.other ⟨0x99, 0, 0, []⟩) ∧
  decode Constants.vmt (.rx [0xFA, 0xFB, 0x41, 0x00, 0x41]) = .ok (.rxInvalid [0xFA, 0xFB, 0x41, 0x00, 0x41]) ∧
  decode Constants.vmt (.port 1 [0x01, 0x05, 0x03]) = .ok (.hostEnq 0x01 [0x05, 0x03]) ∧
  decode Constants.vmt (.port 2 []) = .ok .disconnect ∧
  decode Constants.vmt (.tx [0xFA, 0xFB, 0x06, 0x05, 0x07, 0x01, 0x00, 0x02, 0x04, 0x02]) =
    .ok (.txConfirm 7 2 4)

/-- Decoding the encoding of a well-formed instruction gives it back, every operand at every value. Derived: R99 and log
entries 2, 12, 18, 19. -/
def Obligations.DecodeOfEncodeIsTheInstruction : Prop :=
  ∀ (k : Constants) (i : Instr), k.distinct = true → i.wf k = true → decode k (encode k i) = .ok i

/-- The decoder gives only well-formed instructions. Derived: R68, R94, R76. -/
def Obligations.DecodedInstructionsAreWellFormed : Prop :=
  ∀ (k : Constants) (r : Request) (i : Instr), decode k r = .ok i → i.wf k = true

/-- A step takes the next pending request and runs the instruction it decodes to (R6). Derived: D1, log entry 1. -/
def Obligations.StepRunsTheNextRequest : Prop :=
  ∀ (s : State) (r : Request) (rest : List Request) (i : Instr),
    s.pending = r :: rest → decode s.cfg.k r = .ok i → step s = exec i { s with pending := rest }

/-- With nothing pending the block holds its state (R7, R176); a request that is no transaction is refused by name.
Derived: log entries 11 and 12. -/
def Obligations.StepWithoutTransaction : Prop :=
  (∀ s : State, s.pending = [] → step s = .next s) ∧
  (∀ (s : State) (r : Request) (rest : List Request) (e : DecodeError),
    s.pending = r :: rest → decode s.cfg.k r = .error e → step s = .refused (.undecodable e))

/-- A word of the opcode table placed before the step is what the step runs. Derived: log entry 3. -/
def Obligations.TableWordIsRunNext : Prop :=
  (∀ (s : State) (nbits w : Nat) (i : Instr), decode s.cfg.k (tableRequest s.cfg.k nbits w) = .ok i →
    step (s.withFetchWord nbits w) = exec i s) ∧
  (∀ (s : State) (nbits w : Nat) (i : Instr), s.cfg.k = Constants.vmt → decodeTableWord nbits w = some i →
    step (s.withFetchWord nbits w) = exec i s)

/-! ### The whole machine -/

/-- R36 holds in the initial state of every allowed configuration, and nothing has been sent. Derived: so marked in R36. -/
def Obligations.InitialStateHasTheInvariant : Prop :=
  (∀ c : Config, c.wf = true → (State.initial c).Inv ∧ (State.initial c).SentFramesDecode) ∧ State.reset.Inv ∧ State.reset.Good

/-- R36: every step from a state with the invariant, whatever is pending, keeps it. Derived: so marked in R36. -/
def Obligations.StepKeepsTheInvariant : Prop :=
  ∀ s t : State, s.Inv → step s = .next t → t.Inv

/-- From a state with the invariant no step faults, and a step whose next pending request decodes answers a next state, so
every transaction is accepted (R164). Derived: so marked in R164; log entries 1, 8 and 10. -/
def Obligations.NoStepFaultsUnderTheInvariant : Prop :=
  (∀ (s : State) (f : Fault), s.Inv → step s ≠ .fault f) ∧
  (∀ (s : State) (r : Request) (rest : List Request) (i : Instr), s.Inv → s.pending = r :: rest →
    decode s.cfg.k r = .ok i → ∃ t, step s = .next t)

/-- Every frame the block has sent decodes and has 5..260 bytes (R61, R75, R99), and every step keeps this. Derived: R61. -/
def Obligations.StepSendsOnlyDecodableFrames : Prop :=
  ∀ s t : State, s.SentFramesDecode → step s = .next t → t.SentFramesDecode

/-- R111, R162: the events of one step come in the order PKT_RX, POLL_RX, TX, RESULT, LOG, each at most once. Derived: so
marked in R111; D20. -/
def Obligations.StepEventsComeInOrder : Prop :=
  ∀ s t : State, step s = .next t →
    ∃ es, t.events = s.events ++ es ∧ (es.map Event.rank).Pairwise (· < ·)

/-- R167, R76: HOST_ENQ, DISCONNECT and RESET never transmit; an RX_FRAME transmits at most one frame, the bare ACK or, in
IDLE, the encoding of the queue head. Derived: so marked in R167 and R76. -/
def Obligations.OnlyReceivedFramesTransmit : Prop :=
  ∀ s t : State,
    (∀ i, (i = .disconnect ∨ i = .reset ∨ ∃ c pl, i = .hostEnq c pl) → exec i s = .next t →
      txFrames t.events = txFrames s.events) ∧
    (∀ buf, exec (.rxFrame buf) s = .next t →
      txFrames t.events = txFrames s.events ∨
      txFrames t.events = txFrames s.events ++ [bareAck s.cfg.k] ∨
      (∃ c rest, s.st = .idle ∧ s.q = c :: rest ∧ t.st = .awaitAck ∧
        ∃ f, Codec.encode s.cfg.k c = some f ∧ txFrames t.events = txFrames s.events ++ [f]))

/-- R27: `seq` is written only by a completion (STATUS or REPORT with a command in flight), by RESET and, under REINIT, by
DISCONNECT. Derived: D5, 90_conflicts.md C1. -/
def Obligations.OnlyCompletionResetAndReinitWriteSeq : Prop :=
  ∀ (i : Instr) (s t : State), exec i s = .next t → t.seq ≠ s.seq →
    (t.seq = seqAdvance s.seq ∧ s.st ≠ .idle ∧ t.st = .idle ∧ t.q = s.q.tail ∧
      ∃ p, resolve s.cfg.k i = .status p ∨ resolve s.cfg.k i = .report p) ∨
    (i = .reset ∧ t.seq = s.cfg.seqInit) ∨
    (i = .disconnect ∧ s.cfg.seqOnDisconnect = .reinit ∧ t.seq = s.cfg.seqInit)

/-- R28: packets enter the queue only at the tail, by HOST_ENQ or as a confirmation, and leave it only from the head, with
a command in flight, or all at once by DISCONNECT and RESET. Derived: D29 (the confirmation). -/
def Obligations.QueueIsFirstInFirstOut : Prop :=
  ∀ (i : Instr) (s t : State), exec i s = .next t →
    t.q = s.q ∨
    (∃ c pl, i = .hostEnq c pl ∧ t.q = s.q ++ [hostPacket c s.seq pl]) ∨
    (s.st ≠ .idle ∧ t.st = .idle ∧ ∃ c, s.q = c :: t.q) ∨
    (s.st ≠ .idle ∧ t.st = .idle ∧ ∃ c rest row col, s.q = c :: rest ∧
      t.q = rest ++ [confirmation s.cfg.k c.packNo row col]) ∨
    ((i = .disconnect ∨ i = .reset) ∧ t.q = [])

/-- R184: AWAIT_ACK is left only by an ACK, a STATUS, a terminal REPORT, DISCONNECT or RESET. Derived: so marked in R184;
D9. -/
def Obligations.AwaitAckIsLeftOnlyByAnswersOrReset : Prop :=
  ∀ (i : Instr) (s t : State), s.st = .awaitAck → exec i s = .next t →
    t.st = .awaitAck ∨
    (∃ p, resolve s.cfg.k i = .ack p ∧ t.st = .awaitData) ∨
    (∃ p, resolve s.cfg.k i = .status p ∧ t.st = .idle) ∨
    (∃ p r, resolve s.cfg.k i = .report p ∧ slotResult p.payload = some r ∧ r.status ≠ s.cfg.k.stOk ∧
      t.st = .idle) ∨
    ((i = .disconnect ∨ i = .reset) ∧ t.st = .idle)

/-- R185: AWAIT_DATA is left only by a STATUS, a terminal REPORT, DISCONNECT or RESET. Derived: so marked in R185. -/
def Obligations.AwaitDataIsLeftOnlyByResultsOrReset : Prop :=
  ∀ (i : Instr) (s t : State), s.st = .awaitData → exec i s = .next t →
    t.st = .awaitData ∨
    (∃ p, resolve s.cfg.k i = .status p ∧ t.st = .idle) ∨
    (∃ p r, resolve s.cfg.k i = .report p ∧ slotResult p.payload = some r ∧ r.status ≠ s.cfg.k.stOk ∧
      t.st = .idle) ∨
    ((i = .disconnect ∨ i = .reset) ∧ t.st = .idle)

/-- R33, R168: the refusal mark is never cleared, and a step that refuses writes the mark (and the model's reason) and
nothing else. Derived: D15, D17, log entry 8. -/
def Obligations.RefusalMarkIsSticky : Prop :=
  ∀ (i : Instr) (s t : State), exec i s = .next t →
    (s.refused = true → t.refused = true) ∧
    (t.refused = s.refused ∧ t.lastRefusal = s.lastRefusal ∨
      ∃ reason, t = { s with refused := true, lastRefusal := some reason })

/-- No instruction writes the configuration or the pending requests, and events are only appended. Derived: log entries 1,
4, 6. -/
def Obligations.ConfigurationAndInputsAreNotWritten : Prop :=
  ∀ (i : Instr) (s t : State), exec i s = .next t →
    t.cfg = s.cfg ∧ t.pending = s.pending ∧ s.events <+: t.events

/-- R134: no received packNo is read: two received packets that differ only in it have the same effect on the block and
cause the same events but for the notifications that repeat the packet. Derived: so marked in R134. -/
def Obligations.ReceivedPackNoIsNotRead : Prop :=
  ∀ row ∈ ([Instr.poll, Instr.ack, Instr.status, Instr.report, Instr.other] : List (Packet → Instr)),
    ∀ (s t : State) (p : Packet) (n : Byte), exec (row p) s = .next t →
      ∃ u, exec (row { p with packNo := n }) s = .next u ∧
        u.st = t.st ∧ u.seq = t.seq ∧ u.q = t.q ∧ u.refused = t.refused ∧ effects u.events = effects t.events

/-- R192: from IDLE with N commands queued, N cycles of POLL, ACK and a terminal STATUS or REPORT transmit exactly those N
commands, in queue order (each cycle's other frame is the ACK of its result), and leave the queue empty; `seq` advances
once a cycle (R112). Derived: so marked in R192. -/
def Obligations.CyclesDrainTheQueueInOrder : Prop :=
  ∀ (s : State) (ys : List PollCycle) (rest : List Request),
    s.Inv → s.st = .idle → ys.length = s.q.length → (∀ y ∈ ys, y.completes s.cfg = true) →
    s.pending = ys.flatMap PollCycle.requests ++ rest →
    ∃ t : State, Host.Core.run Sys2Proof.core (3 * ys.length) s = .next t ∧
      t.st = .idle ∧ t.q = [] ∧ t.pending = rest ∧ t.seq = seqAdvance^[ys.length] s.seq ∧
      t.refused = s.refused ∧
      txFrames t.events =
        txFrames s.events ++ s.q.flatMap (fun c => [Codec.frame s.cfg.k c, bareAck s.cfg.k])
end

