-- ==== Sys2Proof/Laws/Codec.lean ====
section
/-! SUPPORT. What each codec function gives: the fold, the length and the bytes of a frame, and one inversion lemma for
ENCODE and one for DECODE. -/

namespace Sys2Proof

/-! Offsets (R11) -/

theorem getElem?_eq_byteAt {s : Bytes} {i : Nat} (h : i < s.length) : s[i]? = some (byteAt s i) := by
  simp [byteAt, List.getElem?_eq_getElem h]

theorem byteAt_append_left {s : Bytes} (t : Bytes) {i : Nat} (h : i < s.length) :
    byteAt (s ++ t) i = byteAt s i := by
  simp [byteAt, List.getElem?_append_left h]

theorem byteAt_append_length (s t : Bytes) (b : Byte) : byteAt (s ++ b :: t) s.length = b := by
  simp [byteAt]

theorem byteAt_take {s : Bytes} {i n : Nat} (h : i < n) : byteAt (s.take n) i = byteAt s i := by
  simp [byteAt, List.getElem?_take_of_lt h]

theorem slice_zero (s : Bytes) (n : Nat) : slice s 0 n = s.take n := rfl

theorem slice_length (s : Bytes) (i j : Nat) : (slice s i j).length = min j s.length - i := by
  simp [slice]

/-! CHECKSUM (R90) -/

@[simp] theorem Codec.checksum_nil : Codec.checksum [] = 0 := rfl

theorem Codec.foldl_xor (s : Bytes) (a : Byte) : s.foldl (· ^^^ ·) a = a ^^^ Codec.checksum s := by
  induction s generalizing a with
  | nil => simp
  | cons b s ih =>
    have hc : Codec.checksum (b :: s) = b ^^^ Codec.checksum s := by
      rw [Codec.checksum, List.foldl_cons, ih]
      simp
    rw [List.foldl_cons, ih, hc, BitVec.xor_assoc]

@[simp] theorem Codec.checksum_cons (b : Byte) (s : Bytes) :
    Codec.checksum (b :: s) = b ^^^ Codec.checksum s := by
  rw [Codec.checksum, List.foldl_cons, Codec.foldl_xor]
  simp

@[simp] theorem Codec.checksum_append (a b : Bytes) :
    Codec.checksum (a ++ b) = Codec.checksum a ^^^ Codec.checksum b := by
  induction a with
  | nil => simp
  | cons x a ih => simp [ih, BitVec.xor_assoc]

theorem Packet.encodable_of_wf {p : Packet} (h : p.wf = true) : p.encodable = true := by
  unfold Packet.wf at h
  unfold Packet.encodable
  split <;> simp_all

/-- What a well-formed packet is (R25). -/
theorem Packet.wf_cases {p : Packet} (h : p.wf = true) :
    (p.length = 0 ∧ p.packNo = 0 ∧ p.payload = []) ∨
    (p.length ≠ 0 ∧ p.payload.length + 1 = p.length.toNat) := by
  unfold Packet.wf at h
  split at h <;> simp_all

/-- What ENCODE accepts (log entry 9). -/
theorem Packet.encodable_cases {p : Packet} (h : p.encodable = true) :
    (p.length = 0 ∧ p.payload = []) ∨ (p.length ≠ 0 ∧ p.payload.length + 1 = p.length.toNat) := by
  unfold Packet.encodable at h
  split at h <;> simp_all

theorem Codec.encode_of_encodable (k : Constants) {p : Packet} (h : p.encodable = true) :
    Codec.encode k p = some (Codec.frame k p) := by
  simp [Codec.encode, h]

theorem Codec.encode_of_not_encodable (k : Constants) {p : Packet} (h : p.encodable = false) :
    Codec.encode k p = none := by
  simp [Codec.encode, h]

/-- ENCODE answers the frame of an encodable packet and nothing else. -/
theorem Codec.encode_eq_some {k : Constants} {p : Packet} {f : Bytes} (h : Codec.encode k p = some f) :
    p.encodable = true ∧ f = Codec.frame k p := by
  unfold Codec.encode at h
  split at h <;> simp_all

/-- R61: the bytes before the checksum. -/
theorem Codec.body_length (k : Constants) {p : Packet} (h : p.encodable = true) :
    (Codec.body k p).length = 4 + p.length.toNat := by
  rcases Packet.encodable_cases h with ⟨h0, hp⟩ | ⟨h0, hp⟩
  · simp [Codec.body, h0]
  · rw [Codec.body, if_neg h0]
    simp; omega

/-- R61: a frame has `5 + length` bytes. -/
theorem Codec.frame_length (k : Constants) {p : Packet} (h : p.encodable = true) :
    (Codec.frame k p).length = 5 + p.length.toNat := by
  simp [Codec.frame, Codec.body_length k h]; omega

theorem hostPacket_length_toNat (c n : Byte) {payload : Bytes} (h : payload.length ≤ 254) :
    (hostPacket c n payload).length.toNat = 1 + payload.length := by
  simp [hostPacket]; omega

theorem hostPacket_wf (c n : Byte) {payload : Bytes} (h : payload.length ≤ 254) :
    (hostPacket c n payload).wf = true := by
  have hl := hostPacket_length_toNat c n h
  have h0 : (hostPacket c n payload).length ≠ 0 := by
    intro h0
    rw [h0] at hl
    simp at hl; omega
  have hp : (hostPacket c n payload).payload = payload := rfl
  rw [Packet.wf, if_neg h0, hl, hp]
  simp; omega

theorem hostPacket_not_encodable (c n : Byte) {payload : Bytes} (h : 254 < payload.length) :
    (hostPacket c n payload).encodable = false := by
  have hp : (hostPacket c n payload).payload = payload := rfl
  have hne : payload ≠ [] := by
    intro h'
    simp [h'] at h
  unfold Packet.encodable
  split
  · simp [hp, hne]
  · have := (hostPacket c n payload).length.isLt
    simp [hp]; omega

theorem confirmation_wf (k : Constants) (n row col : Byte) : (confirmation k n row col).wf = true := by
  simp [Packet.wf, confirmation]

theorem ackPacket_wf (k : Constants) : (ackPacket k).wf = true := by
  simp [Packet.wf, ackPacket]

end Sys2Proof
end

