-- ==== Sys2Proof/Laws/State.lean ====
section
/-! SUPPORT. One lemma per field of State and update, so that no later proof unfolds a record update. -/

namespace Sys2Proof.Machine

/-! `State.emit` -/

@[simp] theorem State.emit_st (s : State) (es : List Event) : (s.emit es).st = s.st := rfl
@[simp] theorem State.emit_seq (s : State) (es : List Event) : (s.emit es).seq = s.seq := rfl
@[simp] theorem State.emit_q (s : State) (es : List Event) : (s.emit es).q = s.q := rfl
@[simp] theorem State.emit_refused (s : State) (es : List Event) : (s.emit es).refused = s.refused := rfl
@[simp] theorem State.emit_cfg (s : State) (es : List Event) : (s.emit es).cfg = s.cfg := rfl
@[simp] theorem State.emit_pending (s : State) (es : List Event) : (s.emit es).pending = s.pending := rfl
@[simp] theorem State.emit_events (s : State) (es : List Event) : (s.emit es).events = s.events ++ es := rfl
@[simp] theorem State.emit_codecOut (s : State) (es : List Event) : (s.emit es).codecOut = s.codecOut := rfl
@[simp] theorem State.emit_lastRefusal (s : State) (es : List Event) : (s.emit es).lastRefusal = s.lastRefusal := rfl

/-! `State.refuse` -/

@[simp] theorem State.refuse_st (s : State) (r : RefusalReason) : (s.refuse r).st = s.st := rfl
@[simp] theorem State.refuse_seq (s : State) (r : RefusalReason) : (s.refuse r).seq = s.seq := rfl
@[simp] theorem State.refuse_q (s : State) (r : RefusalReason) : (s.refuse r).q = s.q := rfl
@[simp] theorem State.refuse_refused (s : State) (r : RefusalReason) : (s.refuse r).refused = true := rfl
@[simp] theorem State.refuse_cfg (s : State) (r : RefusalReason) : (s.refuse r).cfg = s.cfg := rfl
@[simp] theorem State.refuse_pending (s : State) (r : RefusalReason) : (s.refuse r).pending = s.pending := rfl
@[simp] theorem State.refuse_events (s : State) (r : RefusalReason) : (s.refuse r).events = s.events := rfl
@[simp] theorem State.refuse_codecOut (s : State) (r : RefusalReason) : (s.refuse r).codecOut = s.codecOut := rfl
@[simp] theorem State.refuse_lastRefusal (s : State) (r : RefusalReason) : (s.refuse r).lastRefusal = some r := rfl

/-! `State.setAckWait` -/

@[simp] theorem State.setAckWait_st (s : State) : s.setAckWait.st = .awaitAck := rfl
@[simp] theorem State.setAckWait_seq (s : State) : s.setAckWait.seq = s.seq := rfl
@[simp] theorem State.setAckWait_q (s : State) : s.setAckWait.q = s.q := rfl
@[simp] theorem State.setAckWait_refused (s : State) : s.setAckWait.refused = s.refused := rfl
@[simp] theorem State.setAckWait_cfg (s : State) : s.setAckWait.cfg = s.cfg := rfl
@[simp] theorem State.setAckWait_pending (s : State) : s.setAckWait.pending = s.pending := rfl
@[simp] theorem State.setAckWait_events (s : State) : s.setAckWait.events = s.events := rfl
@[simp] theorem State.setAckWait_codecOut (s : State) : s.setAckWait.codecOut = s.codecOut := rfl
@[simp] theorem State.setAckWait_lastRefusal (s : State) : s.setAckWait.lastRefusal = s.lastRefusal := rfl

/-! `State.clearAckWait` -/

@[simp] theorem State.clearAckWait_st (s : State) : s.clearAckWait.st = .awaitData := rfl
@[simp] theorem State.clearAckWait_seq (s : State) : s.clearAckWait.seq = s.seq := rfl
@[simp] theorem State.clearAckWait_q (s : State) : s.clearAckWait.q = s.q := rfl
@[simp] theorem State.clearAckWait_refused (s : State) : s.clearAckWait.refused = s.refused := rfl
@[simp] theorem State.clearAckWait_cfg (s : State) : s.clearAckWait.cfg = s.cfg := rfl
@[simp] theorem State.clearAckWait_pending (s : State) : s.clearAckWait.pending = s.pending := rfl
@[simp] theorem State.clearAckWait_events (s : State) : s.clearAckWait.events = s.events := rfl
@[simp] theorem State.clearAckWait_codecOut (s : State) : s.clearAckWait.codecOut = s.codecOut := rfl
@[simp] theorem State.clearAckWait_lastRefusal (s : State) : s.clearAckWait.lastRefusal = s.lastRefusal := rfl

/-! `State.clearWaitFlags` -/

@[simp] theorem State.clearWaitFlags_st (s : State) : s.clearWaitFlags.st = .idle := rfl
@[simp] theorem State.clearWaitFlags_seq (s : State) : s.clearWaitFlags.seq = s.seq := rfl
@[simp] theorem State.clearWaitFlags_q (s : State) : s.clearWaitFlags.q = s.q := rfl
@[simp] theorem State.clearWaitFlags_refused (s : State) : s.clearWaitFlags.refused = s.refused := rfl
@[simp] theorem State.clearWaitFlags_cfg (s : State) : s.clearWaitFlags.cfg = s.cfg := rfl
@[simp] theorem State.clearWaitFlags_pending (s : State) : s.clearWaitFlags.pending = s.pending := rfl
@[simp] theorem State.clearWaitFlags_events (s : State) : s.clearWaitFlags.events = s.events := rfl
@[simp] theorem State.clearWaitFlags_codecOut (s : State) : s.clearWaitFlags.codecOut = s.codecOut := rfl
@[simp] theorem State.clearWaitFlags_lastRefusal (s : State) : s.clearWaitFlags.lastRefusal = s.lastRefusal := rfl

/-! `State.complete` -/

@[simp] theorem State.complete_st (s : State) : s.complete.st = .idle := rfl
@[simp] theorem State.complete_seq (s : State) : s.complete.seq = seqAdvance s.seq := rfl
@[simp] theorem State.complete_q (s : State) : s.complete.q = s.q.tail := rfl
@[simp] theorem State.complete_refused (s : State) : s.complete.refused = s.refused := rfl
@[simp] theorem State.complete_cfg (s : State) : s.complete.cfg = s.cfg := rfl
@[simp] theorem State.complete_pending (s : State) : s.complete.pending = s.pending := rfl
@[simp] theorem State.complete_events (s : State) : s.complete.events = s.events := rfl
@[simp] theorem State.complete_codecOut (s : State) : s.complete.codecOut = s.codecOut := rfl
@[simp] theorem State.complete_lastRefusal (s : State) : s.complete.lastRefusal = s.lastRefusal := rfl

/-! `State.chainConfirmation` -/

@[simp] theorem State.chainConfirmation_st (s : State) (c : Packet) (row col : Byte) : (s.chainConfirmation c row col).st = .idle := rfl
@[simp] theorem State.chainConfirmation_seq (s : State) (c : Packet) (row col : Byte) : (s.chainConfirmation c row col).seq = s.seq := rfl
@[simp] theorem State.chainConfirmation_q (s : State) (c : Packet) (row col : Byte) : (s.chainConfirmation c row col).q = s.q.tail ++ [confirmation s.cfg.k c.packNo row col] := rfl
@[simp] theorem State.chainConfirmation_refused (s : State) (c : Packet) (row col : Byte) : (s.chainConfirmation c row col).refused = s.refused := rfl
@[simp] theorem State.chainConfirmation_cfg (s : State) (c : Packet) (row col : Byte) : (s.chainConfirmation c row col).cfg = s.cfg := rfl
@[simp] theorem State.chainConfirmation_pending (s : State) (c : Packet) (row col : Byte) : (s.chainConfirmation c row col).pending = s.pending := rfl
@[simp] theorem State.chainConfirmation_events (s : State) (c : Packet) (row col : Byte) : (s.chainConfirmation c row col).events = s.events := rfl
@[simp] theorem State.chainConfirmation_codecOut (s : State) (c : Packet) (row col : Byte) : (s.chainConfirmation c row col).codecOut = s.codecOut := rfl
@[simp] theorem State.chainConfirmation_lastRefusal (s : State) (c : Packet) (row col : Byte) : (s.chainConfirmation c row col).lastRefusal = s.lastRefusal := rfl

/-! `State.putNext` -/

@[simp] theorem State.putNext_st (s : State) (r : Request) : (s.putNext r).st = s.st := rfl
@[simp] theorem State.putNext_seq (s : State) (r : Request) : (s.putNext r).seq = s.seq := rfl
@[simp] theorem State.putNext_q (s : State) (r : Request) : (s.putNext r).q = s.q := rfl
@[simp] theorem State.putNext_refused (s : State) (r : Request) : (s.putNext r).refused = s.refused := rfl
@[simp] theorem State.putNext_cfg (s : State) (r : Request) : (s.putNext r).cfg = s.cfg := rfl
@[simp] theorem State.putNext_pending (s : State) (r : Request) : (s.putNext r).pending = r :: s.pending := rfl
@[simp] theorem State.putNext_events (s : State) (r : Request) : (s.putNext r).events = s.events := rfl
@[simp] theorem State.putNext_codecOut (s : State) (r : Request) : (s.putNext r).codecOut = s.codecOut := rfl
@[simp] theorem State.putNext_lastRefusal (s : State) (r : Request) : (s.putNext r).lastRefusal = s.lastRefusal := rfl

/-! `State.initial` and the queue primitives -/

@[simp] theorem State.initial_st (c : Config) : (State.initial c).st = .idle := rfl
@[simp] theorem State.initial_seq (c : Config) : (State.initial c).seq = c.seqInit := rfl
@[simp] theorem State.initial_q (c : Config) : (State.initial c).q = [] := rfl
@[simp] theorem State.initial_refused (c : Config) : (State.initial c).refused = false := rfl
@[simp] theorem State.initial_cfg (c : Config) : (State.initial c).cfg = c := rfl
@[simp] theorem State.initial_pending (c : Config) : (State.initial c).pending = [] := rfl
@[simp] theorem State.initial_events (c : Config) : (State.initial c).events = [] := rfl

@[simp] theorem qPop_cons (c : Packet) (rest : List Packet) : qPop (c :: rest) = rest := rfl
@[simp] theorem qPush_eq (q : List Packet) (p : Packet) : qPush q p = q ++ [p] := rfl

/-! The wait flags (R24) -/

@[simp] theorem State.ackWait_iff (s : State) : s.ackWait = true ↔ s.st = .awaitAck := by
  simp [State.ackWait]

@[simp] theorem State.dataWait_iff (s : State) : s.dataWait = true ↔ s.st = .awaitData := by
  simp [State.dataWait]

/-! The frames among the events -/

@[simp] theorem txFrames_nil : txFrames [] = [] := rfl
@[simp] theorem txFrames_tx (f : Bytes) (es : List Event) : txFrames (.tx f :: es) = f :: txFrames es := rfl
@[simp] theorem txFrames_pktRx (p : Packet) (es : List Event) : txFrames (.pktRx p :: es) = txFrames es := rfl
@[simp] theorem txFrames_pollRx (p : Packet) (es : List Event) : txFrames (.pollRx p :: es) = txFrames es := rfl
@[simp] theorem txFrames_result (k : ResultKind) (a b c d : Byte) (es : List Event) :
    txFrames (.result k a b c d :: es) = txFrames es := rfl
@[simp] theorem txFrames_log (c : LogCode) (es : List Event) : txFrames (.log c :: es) = txFrames es := rfl

@[simp] theorem txFrames_append (as bs : List Event) : txFrames (as ++ bs) = txFrames as ++ txFrames bs := by
  induction as with
  | nil => rfl
  | cons e es ih => cases e <;> simp [ih]

end Sys2Proof.Machine
end

