-- ==== Sys2Proof/Laws/Ops.lean ====
section
/-! SUPPORT. For each shared operation, one lemma that says what it can do. -/

namespace Sys2Proof.Machine

theorem seqAdvance_ne_zero (v : Byte) : seqAdvance v ≠ 0 := by
  unfold seqAdvance
  split
  · decide
  · assumption

/-- `transmit` sends one frame, or refuses a packet ENCODE refuses. -/
theorem transmit_cases (s : State) (before : List Event) (p : Packet) (after : State → State) :
    (p.encodable = true ∧
      s.transmit before p after = after (s.emit (before ++ [.tx (Codec.frame s.cfg.k p)]))) ∨
    (p.encodable = false ∧ s.transmit before p after = s.refuse .encMalformed) := by
  unfold State.transmit
  cases h : p.encodable
  · simp [Codec.encode_of_not_encodable _ h]
  · simp [Codec.encode_of_encodable _ h]

/-- R65: the operands are absent exactly when the payload has fewer than three bytes. -/
theorem slotResult_eq_none {payload : Bytes} : slotResult payload = none ↔ payload.length < 3 := by
  match payload with
  | [] => simp [slotResult]
  | [_] => simp [slotResult]
  | [_, _] => simp [slotResult]
  | _ :: _ :: _ :: _ => simp [slotResult]

/-- R70: the operands are the first three bytes. -/
theorem slotResult_eq_some {payload : Bytes} {r : SlotResult} :
    slotResult payload = some r ↔ ∃ more, payload = r.status :: r.row :: r.col :: more := by
  match payload with
  | [] => simp [slotResult]
  | [_] => simp [slotResult]
  | [_, _] => simp [slotResult]
  | a :: b :: c :: d =>
    cases r
    simp [slotResult]

theorem queueFits_mono {c : Config} {m n : Nat} (h : queueFits c n = true) (hm : m ≤ n) :
    queueFits c m = true := by
  unfold queueFits at *
  split <;> simp_all; omega

/-- R143: a queue that fits and is not full has room for one more packet. -/
theorem queueFits_succ {c : Config} {n : Nat} (h : queueFits c n = true) (hf : queueFull c n = false) :
    queueFits c (n + 1) = true := by
  unfold queueFits queueFull at *
  split at h <;> simp_all; omega

end Sys2Proof.Machine
end

