-- ==== Sys2Proof/Laws/Exec.lean ====
section
/-! SUPPORT. One inversion lemma per meaning with branches, for `step`, and the link between RX_FRAME and the rows. -/

namespace Sys2Proof.Machine

/-- POLL answers a next state: the head is sent, refused, or the heartbeat is sent. -/
theorem execPoll_cases (p : Packet) (s : State) :
    (∃ c rest, s.st = .idle ∧ s.q = c :: rest ∧
      execPoll p s = .next (s.transmit [.pktRx p, .pollRx p] c State.setAckWait)) ∨
    ((s.st ≠ .idle ∨ s.q = []) ∧
      execPoll p s = .next (s.emit [.pktRx p, .pollRx p, .tx (bareAck s.cfg.k)])) := by
  unfold execPoll
  cases hst : s.st <;> cases hq : s.q <;> simp

/-- ACK: the two branches of R118. -/
theorem execAck_cases (p : Packet) (s : State) :
    (s.st = .awaitAck ∧ execAck p s = .next (s.clearAckWait.emit [.pktRx p])) ∨
    (s.st ≠ .awaitAck ∧ execAck p s = .next (s.emit [.pktRx p, .log .unexpectedAck])) := by
  unfold execAck
  split <;> simp_all

/-- STATUS: the branches of R120, and the stop of log entry 10. -/
theorem execStatus_cases (p : Packet) (s : State) :
    (s.st = .idle ∧
      execStatus p s = .next (s.emit [.pktRx p, .tx (bareAck s.cfg.k), .log .resultWithoutCommand])) ∨
    (s.st ≠ .idle ∧ s.q = [] ∧ execStatus p s = .fault .noInFlight) ∨
    (∃ c rest, s.st ≠ .idle ∧ s.q = c :: rest ∧ slotResult p.payload = none ∧
      execStatus p s =
        .next (s.complete.emit [.pktRx p, .tx (bareAck s.cfg.k), .log .statusShortPayload])) ∨
    (∃ c rest r, s.st ≠ .idle ∧ s.q = c :: rest ∧ slotResult p.payload = some r ∧ r.status = s.cfg.k.stOk ∧
      execStatus p s = .next ((s.chainConfirmation c r.row r.col).emit
        [.pktRx p, .tx (bareAck s.cfg.k), .result .check r.status r.row r.col c.packNo])) ∨
    (∃ c rest r, s.st ≠ .idle ∧ s.q = c :: rest ∧ slotResult p.payload = some r ∧ r.status ≠ s.cfg.k.stOk ∧
      execStatus p s = .next (s.complete.emit
        [.pktRx p, .tx (bareAck s.cfg.k), .result .check r.status r.row r.col c.packNo])) := by
  unfold execStatus
  by_cases hst : s.st = .idle
  · simp [hst]
  · cases hq : s.q with
    | nil => simp [hst]
    | cons c rest =>
      cases hr : slotResult p.payload with
      | none => simp [hst]
      | some r => by_cases ho : r.status = s.cfg.k.stOk <;> simp [hst, ho]

/-- REPORT: the branches of R126, and the stop of log entry 10. -/
theorem execReport_cases (p : Packet) (s : State) :
    (s.st = .idle ∧
      execReport p s = .next (s.emit [.pktRx p, .tx (bareAck s.cfg.k), .log .resultWithoutCommand])) ∨
    (s.st ≠ .idle ∧ slotResult p.payload = none ∧
      execReport p s = .next (s.emit [.pktRx p, .tx (bareAck s.cfg.k), .log .reportShortPayload])) ∨
    (∃ r, s.st ≠ .idle ∧ slotResult p.payload = some r ∧ r.status = s.cfg.k.stOk ∧
      execReport p s = .next (s.emit [.pktRx p, .tx (bareAck s.cfg.k)])) ∨
    (∃ r, s.st ≠ .idle ∧ s.q = [] ∧ slotResult p.payload = some r ∧ r.status ≠ s.cfg.k.stOk ∧
      execReport p s = .fault .noInFlight) ∨
    (∃ c rest r, s.st ≠ .idle ∧ s.q = c :: rest ∧ slotResult p.payload = some r ∧ r.status ≠ s.cfg.k.stOk ∧
      execReport p s = .next (s.complete.emit
        [.pktRx p, .tx (bareAck s.cfg.k), .result .release r.status r.row r.col c.packNo])) := by
  unfold execReport
  by_cases hst : s.st = .idle
  · simp [hst]
  · cases hr : slotResult p.payload with
    | none => simp [hst]
    | some r =>
      by_cases ho : r.status = s.cfg.k.stOk
      · simp [hst, ho]
      · cases hq : s.q <;> simp [hst, ho]

/-- RX_INVALID: refused for its size, or logged. -/
theorem execRxInvalid_cases (buf : Bytes) (s : State) :
    (rxOversize s.cfg buf = true ∧ execRxInvalid buf s = .next (s.refuse .rxOversize)) ∨
    (rxOversize s.cfg buf = false ∧ execRxInvalid buf s = .next (s.emit [.log .frameInvalid])) := by
  unfold execRxInvalid
  split <;> simp_all

/-- The dispatch of R110 is the classification of R68. -/
theorem dispatch_eq (p : Packet) (s : State) : dispatch p s = exec (classify s.cfg.k p) s := by
  unfold dispatch classify
  split
  · rfl
  · split
    · rfl
    · split
      · rfl
      · split <;> rfl

/-- RX_FRAME: refused for its size, or the row the buffer decodes to (R110). -/
theorem execRxFrame_cases (buf : Bytes) (s : State) :
    (rxOversize s.cfg buf = true ∧ execRxFrame buf s = .next (s.refuse .rxOversize)) ∨
    (rxOversize s.cfg buf = false ∧ execRxFrame buf s = exec (decodeRx s.cfg.k buf) s) := by
  unfold execRxFrame decodeRx
  cases h : rxOversize s.cfg buf
  · cases hd : Codec.decode s.cfg.k buf with
    | none => exact .inr ⟨rfl, rfl⟩
    | some p => exact .inr ⟨rfl, dispatch_eq p s⟩
  · exact .inl ⟨rfl, rfl⟩

/-- The row a decoded packet selects is one of the five, so a received buffer is never again an RX_FRAME. -/
theorem classify_cases (k : Constants) (p : Packet) :
    classify k p = .poll p ∨ classify k p = .ack p ∨ classify k p = .status p ∨ classify k p = .report p ∨
      classify k p = .other p := by
  unfold classify
  split
  · simp
  · split
    · simp
    · split
      · simp
      · split <;> simp

/-- A received buffer is RX_INVALID or one of the five rows. -/
theorem decodeRx_cases (k : Constants) (buf : Bytes) :
    decodeRx k buf = .rxInvalid buf ∨ ∃ p, decodeRx k buf = .poll p ∨ decodeRx k buf = .ack p ∨
      decodeRx k buf = .status p ∨ decodeRx k buf = .report p ∨ decodeRx k buf = .other p := by
  unfold decodeRx
  cases Codec.decode k buf with
  | none => exact .inl rfl
  | some p => exact .inr ⟨p, classify_cases k p⟩

/-- HOST_ENQ: the three rejections, or the packet at the tail (R140). -/
theorem execHostEnq_cases (c : Byte) (payload : Bytes) (s : State) :
    (payload.length = 0 ∧ execHostEnq c payload s = .next (s.emit [.log .enqEmptyPayload])) ∨
    (254 < payload.length ∧ execHostEnq c payload s = .next (s.emit [.log .enqPayloadTooLong])) ∨
    (1 ≤ payload.length ∧ payload.length ≤ 254 ∧ queueFull s.cfg s.q.length = true ∧
      execHostEnq c payload s = .next (s.emit [.log .enqQueueFull])) ∨
    (1 ≤ payload.length ∧ payload.length ≤ 254 ∧ queueFull s.cfg s.q.length = false ∧
      execHostEnq c payload s = .next { s with q := s.q ++ [hostPacket c s.seq payload] }) := by
  unfold execHostEnq maxPayload
  by_cases h0 : payload.length = 0
  · simp [h0]
  · by_cases h1 : 254 < payload.length
    · simp [h0, h1]
    · cases hf : queueFull s.cfg s.q.length <;> simp [h0, h1] <;> omega

/-- DISCONNECT by SEQ_ON_DISCONNECT (R146). -/
theorem execDisconnect_cases (s : State) :
    (s.cfg.seqOnDisconnect = .keep ∧ execDisconnect s = .next { s with st := .idle, q := [] }) ∨
    (s.cfg.seqOnDisconnect = .reinit ∧
      execDisconnect s = .next { s with st := .idle, q := [], seq := s.cfg.seqInit }) := by
  unfold execDisconnect
  cases h : s.cfg.seqOnDisconnect <;> simp

/-- Events a step may emit: in the order of R111, each frame that of a packet ENCODE accepts. -/
def Emits (k : Constants) (es : List Event) : Prop :=
  (es.map Event.rank).Pairwise (· < ·) ∧ ∀ f ∈ txFrames es, ∃ p : Packet, p.encodable = true ∧ f = Codec.frame k p

theorem emits_ack (k : Constants) (es fs : List Event)
    (ho : ((es ++ .tx (bareAck k) :: fs).map Event.rank).Pairwise (· < ·)) (he : txFrames es = [])
    (hf : txFrames fs = []) : Emits k (es ++ .tx (bareAck k) :: fs) := by
  refine ⟨ho, ?_⟩
  simp only [txFrames_append, txFrames_tx, he, hf, List.nil_append, List.mem_singleton]
  rintro f rfl
  exact ⟨ackPacket k, Packet.encodable_of_wf (ackPacket_wf k), rfl⟩

theorem emits_quiet (k : Constants) (es : List Event) (ho : (es.map Event.rank).Pairwise (· < ·))
    (he : txFrames es = []) : Emits k es :=
  ⟨ho, by simp [he]⟩

/-- Everything an instruction can write when it answers a next state. -/
inductive Writes (i : Instr) (s : State) : State → Prop where
  /-- events only -/
  | emits (es : List Event) (he : Emits s.cfg.k es) : Writes i s (s.emit es)
  /-- the refusal mark (R168) -/
  | refuses (reason : RefusalReason) : Writes i s (s.refuse reason)
  /-- POLL sends the queue head (R116) -/
  | sends (p c : Packet) (rest : List Packet) (hi : resolve s.cfg.k i = .poll p) (hst : s.st = .idle)
      (hq : s.q = c :: rest) (hc : c.encodable = true) :
      Writes i s (s.emit [.pktRx p, .pollRx p, .tx (Codec.frame s.cfg.k c)]).setAckWait
  /-- ACK (R118) -/
  | acks (p : Packet) (hi : resolve s.cfg.k i = .ack p) (hst : s.st = .awaitAck) :
      Writes i s (s.clearAckWait.emit [.pktRx p])
  /-- Complete (R112), by STATUS or by a terminal REPORT -/
  | completes (es : List Event) (he : Emits s.cfg.k es) (c : Packet) (rest : List Packet)
      (hi : (∃ p, resolve s.cfg.k i = .status p) ∨
        ∃ p r, resolve s.cfg.k i = .report p ∧ slotResult p.payload = some r ∧ r.status ≠ s.cfg.k.stOk)
      (hst : s.st ≠ .idle) (hq : s.q = c :: rest) : Writes i s (s.complete.emit es)
  /-- STATUS chains a confirmation (R124) -/
  | chains (es : List Event) (he : Emits s.cfg.k es) (p c : Packet) (rest : List Packet) (row col : Byte)
      (hi : resolve s.cfg.k i = .status p) (hst : s.st ≠ .idle) (hq : s.q = c :: rest) :
      Writes i s ((s.chainConfirmation c row col).emit es)
  /-- HOST_ENQ appends (R141) -/
  | enqueues (c : Byte) (payload : Bytes) (hi : i = .hostEnq c payload) (h1 : 1 ≤ payload.length)
      (h2 : payload.length ≤ 254) (hf : queueFull s.cfg s.q.length = false) :
      Writes i s { s with q := s.q ++ [hostPacket c s.seq payload] }
  /-- DISCONNECT under KEEP (R146) -/
  | disconnects (hi : i = .disconnect) (hk : s.cfg.seqOnDisconnect = .keep) :
      Writes i s { s with st := .idle, q := [] }
  /-- RESET, and DISCONNECT under REINIT (R180, R182) -/
  | restarts (hi : i = .reset ∨ (i = .disconnect ∧ s.cfg.seqOnDisconnect = .reinit)) :
      Writes i s { s with st := .idle, q := [], seq := s.cfg.seqInit }
  /-- a codec call returns (log entry 7) -/
  | returns (value : CodecValue) : Writes i s { s with codecOut := some value }

theorem execPoll_writes {i : Instr} {p : Packet} {s t : State} (hi : resolve s.cfg.k i = .poll p)
    (h : execPoll p s = .next t) : Writes i s t := by
  rcases execPoll_cases p s with ⟨c, rest, hst, hq, he⟩ | ⟨_, he⟩
  · rw [he, Host.Outcome.next.injEq] at h
    subst h
    rcases transmit_cases s [.pktRx p, .pollRx p] c State.setAckWait with ⟨hc, ht⟩ | ⟨_, ht⟩
    · rw [ht]; exact .sends p c rest hi hst hq hc
    · rw [ht]; exact .refuses _
  · rw [he, Host.Outcome.next.injEq] at h
    subst h
    exact .emits _ (emits_ack _ [.pktRx p, .pollRx p] [] (by simp [Event.rank]) rfl rfl)

theorem execAck_writes {i : Instr} {p : Packet} {s t : State} (hi : resolve s.cfg.k i = .ack p)
    (h : execAck p s = .next t) : Writes i s t := by
  rcases execAck_cases p s with ⟨hst, he⟩ | ⟨_, he⟩ <;> rw [he, Host.Outcome.next.injEq] at h <;> subst h
  · exact .acks p hi hst
  · exact .emits _ (emits_quiet _ _ (by simp [Event.rank]) rfl)

theorem execStatus_writes {i : Instr} {p : Packet} {s t : State} (hi : resolve s.cfg.k i = .status p)
    (h : execStatus p s = .next t) : Writes i s t := by
  rcases execStatus_cases p s with ⟨_, he⟩ | ⟨_, _, he⟩ | ⟨c, rest, hst, hq, _, he⟩ | ⟨c, rest, r, hst, hq, _, _, he⟩ |
    ⟨c, rest, r, hst, hq, _, _, he⟩ <;> rw [he] at h
  · rw [Host.Outcome.next.injEq] at h
    subst h
    exact .emits _ (emits_ack _ [.pktRx p] _ (by simp [Event.rank]) rfl rfl)
  · simp at h
  · rw [Host.Outcome.next.injEq] at h
    subst h
    exact .completes _ (emits_ack _ [.pktRx p] _ (by simp [Event.rank]) rfl rfl) c rest (.inl ⟨p, hi⟩) hst hq
  · rw [Host.Outcome.next.injEq] at h
    subst h
    exact .chains _ (emits_ack _ [.pktRx p] _ (by simp [Event.rank]) rfl rfl) p c rest _ _ hi hst hq
  · rw [Host.Outcome.next.injEq] at h
    subst h
    exact .completes _ (emits_ack _ [.pktRx p] _ (by simp [Event.rank]) rfl rfl) c rest (.inl ⟨p, hi⟩) hst hq

theorem execReport_writes {i : Instr} {p : Packet} {s t : State} (hi : resolve s.cfg.k i = .report p)
    (h : execReport p s = .next t) : Writes i s t := by
  rcases execReport_cases p s with ⟨_, he⟩ | ⟨_, _, he⟩ | ⟨r, _, _, _, he⟩ | ⟨r, _, _, _, _, he⟩ |
    ⟨c, rest, r, hst, hq, hr, ho, he⟩ <;> rw [he] at h
  · rw [Host.Outcome.next.injEq] at h
    subst h
    exact .emits _ (emits_ack _ [.pktRx p] _ (by simp [Event.rank]) rfl rfl)
  · rw [Host.Outcome.next.injEq] at h
    subst h
    exact .emits _ (emits_ack _ [.pktRx p] _ (by simp [Event.rank]) rfl rfl)
  · rw [Host.Outcome.next.injEq] at h
    subst h
    exact .emits _ (emits_ack _ [.pktRx p] [] (by simp [Event.rank]) rfl rfl)
  · simp at h
  · rw [Host.Outcome.next.injEq] at h
    subst h
    exact .completes _ (emits_ack _ [.pktRx p] _ (by simp [Event.rank]) rfl rfl) c rest
      (.inr ⟨p, r, hi, hr, ho⟩) hst hq

theorem execOther_writes {i : Instr} {p : Packet} {s t : State} (h : execOther p s = .next t) : Writes i s t := by
  rw [execOther, Host.Outcome.next.injEq] at h
  subst h
  exact .emits _ (emits_ack _ [.pktRx p] _ (by simp [Event.rank]) rfl rfl)

theorem execRxInvalid_writes {i : Instr} {buf : Bytes} {s t : State} (h : execRxInvalid buf s = .next t) :
    Writes i s t := by
  rcases execRxInvalid_cases buf s with ⟨_, he⟩ | ⟨_, he⟩ <;> rw [he, Host.Outcome.next.injEq] at h <;> subst h
  · exact .refuses _
  · exact .emits _ (emits_quiet _ _ (by simp [Event.rank]) rfl)

theorem execRxFrame_writes {buf : Bytes} {s t : State} (h : execRxFrame buf s = .next t) :
    Writes (.rxFrame buf) s t := by
  rcases execRxFrame_cases buf s with ⟨_, he⟩ | ⟨_, he⟩
  · rw [he, Host.Outcome.next.injEq] at h
    subst h
    exact .refuses _
  · rw [he] at h
    rcases decodeRx_cases s.cfg.k buf with hr | ⟨p, hr | hr | hr | hr | hr⟩ <;> rw [hr] at h
    · exact execRxInvalid_writes h
    · exact execPoll_writes hr h
    · exact execAck_writes hr h
    · exact execStatus_writes hr h
    · exact execReport_writes hr h
    · exact execOther_writes h

theorem execHostEnq_writes {c : Byte} {payload : Bytes} {s t : State} (h : execHostEnq c payload s = .next t) :
    Writes (.hostEnq c payload) s t := by
  rcases execHostEnq_cases c payload s with ⟨_, he⟩ | ⟨_, he⟩ | ⟨_, _, _, he⟩ | ⟨h1, h2, hf, he⟩ <;>
    rw [he, Host.Outcome.next.injEq] at h <;> subst h
  · exact .emits _ (emits_quiet _ _ (by simp [Event.rank]) rfl)
  · exact .emits _ (emits_quiet _ _ (by simp [Event.rank]) rfl)
  · exact .emits _ (emits_quiet _ _ (by simp [Event.rank]) rfl)
  · exact .enqueues c payload rfl h1 h2 hf

theorem transmit_writes {i : Instr} {p : Packet} {s t : State}
    (h : (.next (s.transmit [] p id) : Host.Outcome State Fault Refusal) = .next t) : Writes i s t := by
  rw [Host.Outcome.next.injEq] at h
  subst h
  rcases transmit_cases s [] p id with ⟨hp, ht⟩ | ⟨_, ht⟩ <;> rw [ht]
  · exact .emits _ ⟨by simp, by simp; exact ⟨p, hp, rfl⟩⟩
  · exact .refuses _

/-- The inversion lemma of `exec`: a next state is one of the writes above. -/
theorem exec_writes {i : Instr} {s t : State} (h : exec i s = .next t) : Writes i s t := by
  cases i with
  | poll p => exact execPoll_writes rfl h
  | ack p => exact execAck_writes rfl h
  | status p => exact execStatus_writes rfl h
  | report p => exact execReport_writes rfl h
  | other p => exact execOther_writes h
  | rxInvalid buf => exact execRxInvalid_writes h
  | rxFrame buf => exact execRxFrame_writes h
  | hostEnq c payload => exact execHostEnq_writes h
  | disconnect =>
    rcases execDisconnect_cases s with ⟨hk, he⟩ | ⟨hk, he⟩ <;> rw [exec, he, Host.Outcome.next.injEq] at h <;> subst h
    · exact .disconnects rfl hk
    · exact .restarts (.inr ⟨rfl, hk⟩)
  | reset =>
    rw [exec, execReset, Host.Outcome.next.injEq] at h
    subst h
    exact .restarts (.inl rfl)
  | codecChecksum bs =>
    rw [exec, execCodecChecksum, Host.Outcome.next.injEq] at h
    subst h
    exact .returns _
  | codecEncode p =>
    simp only [exec, execCodecEncode] at h
    split at h <;> rw [Host.Outcome.next.injEq] at h <;> subst h
    · exact .refuses _
    · exact .returns _
  | codecDecode buf =>
    rw [exec, execCodecDecode, Host.Outcome.next.injEq] at h
    subst h
    exact .returns _
  | txAck =>
    rw [exec, execTxAck, Host.Outcome.next.injEq] at h
    subst h
    exact .emits _ (emits_ack _ [] [] (by simp) rfl rfl)
  | txCommand c n payload => exact transmit_writes h
  | txConfirm n row col => exact transmit_writes h

/-- What `step` can do. -/
theorem step_cases (s : State) :
    (s.pending = [] ∧ step s = .next s) ∨
    (∃ r rest e, s.pending = r :: rest ∧ decode s.cfg.k r = .error e ∧ step s = .refused (.undecodable e)) ∨
    (∃ r rest i, s.pending = r :: rest ∧ decode s.cfg.k r = .ok i ∧
      step s = exec i { s with pending := rest }) := by
  unfold step fetch
  cases hp : s.pending with
  | nil => simp
  | cons r rest =>
    cases hd : decode s.cfg.k r with
    | error e => exact .inr (.inl ⟨r, rest, e, rfl, hd, by simp [hd]⟩)
    | ok i => exact .inr (.inr ⟨r, rest, i, rfl, hd, by simp [hd]⟩)

/-- A run takes its first step. -/
theorem run_succ_of_next {s t : State} (n : Nat) (h : step s = .next t) :
    Host.Core.run Sys2Proof.core (n + 1) s = Host.Core.run Sys2Proof.core n t := by
  have h' : Sys2Proof.core.step s = .next t := h
  simp only [Host.Core.run, h']

/-- A run may be cut in two. -/
theorem run_add_of_next (a b : Nat) {s t : State} (h : Host.Core.run Sys2Proof.core a s = .next t) :
    Host.Core.run Sys2Proof.core (a + b) s = Host.Core.run Sys2Proof.core b t := by
  induction a generalizing s with
  | zero =>
    simp only [Host.Core.run] at h
    cases h
    simp
  | succ a ih =>
    rw [Nat.add_right_comm]
    simp only [Host.Core.run] at h ⊢
    split at h
    · exact ih h
    · cases h
    · cases h

end Sys2Proof.Machine
end

