-- ==== Sys2Proof/Laws/PerInstr.lean ====
section
/-! SUPPORT. Statements about every instruction as syntax, one lemma per constructor. -/

namespace Sys2Proof.Laws.EncodedFormat

/-- The encoder puts an instruction into the format the opcode table gives its row. -/
def Statement (i : Instr) : Prop := ∀ k, (encode k i).format = i.format

theorem poll (p : Packet) : Statement (.poll p) := fun _ => rfl
theorem ack (p : Packet) : Statement (.ack p) := fun _ => rfl
theorem status (p : Packet) : Statement (.status p) := fun _ => rfl
theorem report (p : Packet) : Statement (.report p) := fun _ => rfl
theorem other (p : Packet) : Statement (.other p) := fun _ => rfl
theorem rxInvalid (buf : Bytes) : Statement (.rxInvalid buf) := fun _ => rfl
theorem rxFrame (buf : Bytes) : Statement (.rxFrame buf) := fun _ => rfl
theorem hostEnq (commandType : Byte) (payload : Bytes) : Statement (.hostEnq commandType payload) := fun _ => rfl
theorem disconnect : Statement .disconnect := fun _ => rfl
theorem reset : Statement .reset := fun _ => rfl
theorem codecChecksum (bs : Bytes) : Statement (.codecChecksum bs) := fun _ => rfl
theorem codecEncode (p : Packet) : Statement (.codecEncode p) := fun _ => rfl
theorem codecDecode (buf : Bytes) : Statement (.codecDecode buf) := fun _ => rfl
theorem txAck : Statement .txAck := fun _ => rfl
theorem txCommand (command packNo : Byte) (payload : Bytes) : Statement (.txCommand command packNo payload) :=
  fun _ => rfl
theorem txConfirm (packNo row col : Byte) : Statement (.txConfirm packNo row col) := fun _ => rfl

end Sys2Proof.Laws.EncodedFormat
end

