-- ==== Sys2Proof/Tests/Slice0.lean ====
section
/-! SUPPORT. The model's own tests. Expected results are the spec's (95_test_vectors.md V<n>, or the rule cited). Then the
witnesses: for each statement with hypotheses, a concrete case that meets them. -/

namespace Sys2Proof.Tests

open Sys2Proof.Machine

abbrev vmt : Constants := Constants.vmt

/-- `{st, seq, q}` of 95_test_vectors.md with the default configuration. -/
def mk (st : EngineState) (seq : Byte) (q : List Packet) : State := { State.reset with st := st, seq := seq, q := q }

/-- The block's state and the events after an instruction; `none` if it stops. -/
def run (i : Instr) (s : State) : Option (EngineState × Byte × List Packet × Bool × List Event) :=
  match exec i s with
  | .next t => some (t.st, t.seq, t.q, t.refused, t.events)
  | .fault _ => none
  | .refused _ => none

/-- What the last codec call returned. -/
def value (i : Instr) : Option CodecValue :=
  match exec i State.reset with
  | .next t => t.codecOut
  | .fault _ => none
  | .refused _ => none

def pA : Packet := ⟨0x01, 3, 1, [0x05, 0x03]⟩
def pB : Packet := ⟨0x03, 3, 1, [0x07, 0x07]⟩
def pC : Packet := ⟨0x06, 5, 1, [0x01, 0x00, 0x05, 0x03]⟩
def ackFrame : Bytes := [0xFA, 0xFB, 0x42, 0x00, 0x43]
def pollFrame : Bytes := [0xFA, 0xFB, 0x41, 0x00, 0x40]
def pollPacket : Packet := ⟨0x41, 0, 0, []⟩
def ackPkt : Packet := ⟨0x42, 0, 0, []⟩

/-! ### Decoding: a word of the spec for every constructor -/

theorem test_decode_poll : decode vmt (.rx pollFrame) = .ok (.poll pollPacket) := by decide
theorem test_decode_ack : decode vmt (.rx ackFrame) = .ok (.ack ackPkt) := by decide
theorem test_decode_status : decode vmt (.rx [0xFA, 0xFB, 0x02, 0x04, 0x07, 0x01, 0x02, 0x04, 0x07]) =
    .ok (.status ⟨0x02, 4, 7, [0x01, 0x02, 0x04]⟩) := by decide
theorem test_decode_report : decode vmt (.rx [0xFA, 0xFB, 0x04, 0x04, 0x07, 0x02, 0x02, 0x04, 0x02]) =
    .ok (.report ⟨0x04, 4, 7, [0x02, 0x02, 0x04]⟩) := by decide
theorem test_decode_other : decode vmt (.rx [0xFA, 0xFB, 0x06, 0x05, 0x01, 0x01, 0x00, 0x05, 0x03, 0x04]) =
    .ok (.other pC) := by decide
theorem test_decode_rxInvalid : decode vmt (.rx [0xFB, 0xFA, 0x41, 0x00, 0x40]) =
    .ok (.rxInvalid [0xFB, 0xFA, 0x41, 0x00, 0x40]) := by decide
theorem test_decode_rxFrame : decode vmt (.port 0 pollFrame) = .ok (.rxFrame pollFrame) := by decide
theorem test_decode_hostEnq : decode vmt (.port 1 [0x01, 0x05, 0x03]) = .ok (.hostEnq 0x01 [0x05, 0x03]) := by decide
theorem test_decode_disconnect : decode vmt (.port 2 []) = .ok .disconnect := by decide
theorem test_decode_reset : decode vmt (.port 3 []) = .ok .reset := by decide
theorem test_decode_codecChecksum : decode vmt (.fn .checksum [0xFA, 0xFB]) = .ok (.codecChecksum [0xFA, 0xFB]) := by
  decide
theorem test_decode_codecEncode : decode vmt (.fn .encode [0x01, 3, 1, 0x05, 0x03]) = .ok (.codecEncode pA) := by decide
theorem test_decode_codecDecode : decode vmt (.fn .decode pollFrame) = .ok (.codecDecode pollFrame) := by decide
theorem test_decode_txAck : decode vmt (.tx ackFrame) = .ok .txAck := by decide
theorem test_decode_txCommand : decode vmt (.tx [0xFA, 0xFB, 0x01, 0x03, 0x01, 0x05, 0x03, 0x04]) =
    .ok (.txCommand 0x01 1 [0x05, 0x03]) := by decide
theorem test_decode_txConfirm : decode vmt (.tx [0xFA, 0xFB, 0x06, 0x05, 0x07, 0x01, 0x00, 0x02, 0x04, 0x02]) =
    .ok (.txConfirm 7 2 4) := by decide

/-! Requests that are no transaction, each rejected by its name -/

theorem test_reject_enq : decode vmt (.port 1 []) = .error .enqNoCommandType := by decide
theorem test_reject_data : decode vmt (.port 2 [0]) = .error .portCarriesData ∧
    decode vmt (.port 3 [0]) = .error .portCarriesData := by decide
theorem test_reject_encode : decode vmt (.fn .encode [0x01, 3]) = .error .encodeNoPacket := by decide
theorem test_reject_tx_frame : decode vmt (.tx (ackFrame ++ [0])) = .error .txNotOneFrame ∧
    decode vmt (.tx [0xFA]) = .error .txNotOneFrame := by decide
theorem test_reject_tx_payload : decode vmt (.tx pollFrame) = .error .txNoPayload ∧
    decode vmt (.tx [0xFA, 0xFB, 0x42, 0x01, 0x01, 0x43]) = .error .txNoPayload := by decide

/-! The table's words (log entry 3) -/

theorem test_table_rx : decodeTableWord 8 0x41 = some (.poll pollPacket) ∧ decodeTableWord 8 0x42 = some (.ack ackPkt) ∧
    decodeTableWord 8 0x02 = some (.status ⟨0x02, 0, 0, []⟩) ∧
    decodeTableWord 8 0x04 = some (.report ⟨0x04, 0, 0, []⟩) ∧
    decodeTableWord 8 0x99 = some (.other ⟨0x99, 0, 0, []⟩) := by decide
theorem test_table_port : decodeTableWord 8 0 = some (.rxFrame []) ∧ decodeTableWord 8 1 = some (.hostEnq 0 []) ∧
    decodeTableWord 2 2 = some .disconnect ∧ decodeTableWord 8 3 = some .reset := by decide
theorem test_table_tx : decodeTableWord 8 0x06 = some (.txConfirm 0 0 0) := by decide
theorem test_table_buffer : decodeTableWord 40 0x400041FBFA = some (.poll pollPacket) := by decide

/-! ### WellFormed: an ill-formed term for each check -/

theorem test_wf_packet : Instr.wf vmt (.poll ⟨0x41, 2, 0, []⟩) = false := by decide
theorem test_wf_absent_packNo : Instr.wf vmt (.poll ⟨0x41, 0, 1, []⟩) = false := by decide
theorem test_wf_absent_payload : Instr.wf vmt (.poll ⟨0x41, 0, 0, [1]⟩) = false := by decide
theorem test_wf_poll : Instr.wf vmt (.poll ⟨0x42, 0, 0, []⟩) = false := by decide
theorem test_wf_ack : Instr.wf vmt (.ack ⟨0x41, 0, 0, []⟩) = false := by decide
theorem test_wf_status : Instr.wf vmt (.status ⟨0x04, 0, 0, []⟩) = false := by decide
theorem test_wf_report : Instr.wf vmt (.report ⟨0x02, 0, 0, []⟩) = false := by decide
theorem test_wf_other : Instr.wf vmt (.other ⟨0x04, 0, 0, []⟩) = false := by decide
theorem test_wf_rxInvalid : Instr.wf vmt (.rxInvalid pollFrame) = false := by decide
theorem test_wf_txCommand_empty : Instr.wf vmt (.txCommand 0x01 1 []) = false := by decide
theorem test_wf_txCommand_long : Instr.wf vmt (.txCommand 0x01 1 (List.replicate 255 0)) = false := by
  rw [Instr.wf, List.length_replicate]
  rfl
theorem test_wf_txCommand_confirm : Instr.wf vmt (.txCommand 0x06 1 [0x01, 0x00, 5, 3]) = false := by decide
theorem test_wf_config : Config.wf { Config.vmt with seqInit := 0 } = false ∧
    Config.wf { Config.vmt with qdepth := some 0 } = false ∧ Config.wf { Config.vmt with rxMax := some 259 } = false ∧
    Config.wf { Config.vmt with k := { vmt with cmdAck := 0x41 } } = false := by decide

/-! ### packet_codec (V9, V10, V11, V14, V15) -/

theorem test_checksum : value (.codecChecksum [0xFA, 0xFB, 0x01, 0x03, 0x01, 0x05, 0x03]) = some (.checksum 0x04) := by
  decide
theorem test_checksum_of_frame : value (.codecChecksum [0xFA, 0xFB, 0x01, 0x03, 0x01, 0x05, 0x03, 0x04]) =
    some (.checksum 0x00) := by decide
theorem test_encode : value (.codecEncode ⟨0x06, 5, 7, [0x01, 0x00, 0x02, 0x04]⟩) =
    some (.frame [0xFA, 0xFB, 0x06, 0x05, 0x07, 0x01, 0x00, 0x02, 0x04, 0x02]) := by decide
theorem test_encode_unused_packNo : value (.codecEncode ⟨0x42, 0, 0x37, []⟩) = some (.frame ackFrame) ∧
    run (.codecEncode ⟨0x01, 2, 1, [0x05, 0x03]⟩) (mk .idle 1 []) = some (.idle, 1, [], true, []) := by decide
theorem test_decode_trailing : value (.codecDecode (pollFrame ++ [0x99, 0x12])) = some (.packet (some pollPacket)) ∧
    value (.codecDecode [0xFA, 0xFB, 0x01, 0x03, 0x01, 0x05, 0x03]) = some (.packet none) := by decide
theorem test_decode_flipped_length : value (.codecDecode [0xFA, 0xFB, 0x01, 0x00, 0x00, 0x33, 0x31]) =
    some (.packet (some ⟨0x01, 0, 0, []⟩)) := by decide
theorem test_seqAdvance : seqAdvance 1 = 2 ∧ seqAdvance 254 = 255 ∧ seqAdvance 255 = 1 ∧ seqAdvance 0 = 1 := by decide

/-! ### The receive port (V16 to V21) -/

theorem test_poll_sends : run (.rxFrame pollFrame) (mk .idle 1 [pA]) = some (.awaitAck, 1, [pA], false,
    [.pktRx pollPacket, .pollRx pollPacket, .tx [0xFA, 0xFB, 0x01, 0x03, 0x01, 0x05, 0x03, 0x04]]) := by decide
theorem test_poll_no_retransmission : run (.poll pollPacket) (mk .awaitAck 1 [pA]) = some (.awaitAck, 1, [pA], false,
    [.pktRx pollPacket, .pollRx pollPacket, .tx ackFrame]) := by decide
theorem test_ack : run (.rxFrame ackFrame) (mk .awaitAck 1 [pA]) =
    some (.awaitData, 1, [pA], false, [.pktRx ackPkt]) := by decide
theorem test_ack_unexpected : run (.ack ackPkt) (mk .awaitData 1 [pA]) =
    some (.awaitData, 1, [pA], false, [.pktRx ackPkt, .log .unexpectedAck]) := by decide
theorem test_status_chains_behind : run (.rxFrame [0xFA, 0xFB, 0x02, 0x04, 0x01, 0x01, 0x05, 0x03, 0x01])
    (mk .awaitAck 1 [pA, pB]) = some (.idle, 1, [pB, pC], false,
      [.pktRx ⟨0x02, 4, 1, [0x01, 0x05, 0x03]⟩, .tx ackFrame, .result .check 0x01 5 3 1]) := by decide
theorem test_status_failure_wraps : run (.rxFrame [0xFA, 0xFB, 0x02, 0x04, 0xFF, 0x03, 0x0A, 0x0B, 0xFA])
    (mk .awaitData 255 [⟨0x01, 3, 255, [0x0A, 0x0B]⟩]) = some (.idle, 1, [], false,
      [.pktRx ⟨0x02, 4, 255, [0x03, 0x0A, 0x0B]⟩, .tx ackFrame, .result .check 0x03 10 11 255]) := by decide
theorem test_report_progress : run (.rxFrame [0xFA, 0xFB, 0x04, 0x04, 0x01, 0x01, 0x05, 0x03, 0x07])
    (mk .awaitData 1 [pC]) = some (.awaitData, 1, [pC], false,
      [.pktRx ⟨0x04, 4, 1, [0x01, 0x05, 0x03]⟩, .tx ackFrame]) := by decide
theorem test_report_terminal : run (.rxFrame [0xFA, 0xFB, 0x04, 0x04, 0x01, 0x02, 0x05, 0x03, 0x04])
    (mk .awaitAck 1 [pC]) = some (.idle, 2, [], false,
      [.pktRx ⟨0x04, 4, 1, [0x02, 0x05, 0x03]⟩, .tx ackFrame, .result .release 0x02 5 3 1]) := by decide
theorem test_other : run (.rxFrame [0xFA, 0xFB, 0x99, 0x00, 0x98]) (mk .awaitData 1 [pA]) =
    some (.awaitData, 1, [pA], false, [.pktRx ⟨0x99, 0, 0, []⟩, .tx ackFrame, .log .unknownCommand]) := by decide
theorem test_framing_error : run (.rxFrame [0xFA, 0xFB, 0x41, 0x00, 0x41]) (mk .awaitData 1 [pA]) =
    some (.awaitData, 1, [pA], false, [.log .frameInvalid]) := by decide
theorem test_oversize : run (.rxFrame pollFrame)
    { mk .idle 1 [pA] with cfg := { Config.vmt with rxMax := some 4 } } = some (.idle, 1, [pA], true, []) := by decide

/-! ### Host operations (V22, V23) and emitted frames -/

theorem test_hostEnq : run (.hostEnq 0x03 [0x01]) (mk .awaitData 4 [pA]) =
    some (.awaitData, 4, [pA, ⟨0x03, 2, 4, [0x01]⟩], false, []) := by decide
theorem test_hostEnq_full : run (.hostEnq 0x03 [0x01])
    { mk .awaitAck 4 [pA, pB] with cfg := { Config.vmt with qdepth := some 2 } } =
    some (.awaitAck, 4, [pA, pB], false, [.log .enqQueueFull]) := by decide
theorem test_disconnect_keep : run .disconnect (mk .awaitData 9 [pA, pB]) = some (.idle, 9, [], false, []) := by decide
theorem test_disconnect_reinit : run .disconnect
    { mk .awaitData 9 [pA, pB] with cfg := { Config.vmt with seqOnDisconnect := .reinit } } =
    some (.idle, 1, [], false, []) := by decide
theorem test_reset_keeps_refused : run .reset { mk .awaitData 9 [pA] with refused := true } =
    some (.idle, 1, [], true, []) := by decide
theorem test_txCommand : run (.txCommand 0x03 0xFF [0x0C]) (mk .idle 1 []) =
    some (.idle, 1, [], false, [.tx [0xFA, 0xFB, 0x03, 0x02, 0xFF, 0x0C, 0xF3]]) := by decide
theorem test_txConfirm : run (.txConfirm 7 2 4) (mk .idle 1 []) =
    some (.idle, 1, [], false, [.tx [0xFA, 0xFB, 0x06, 0x05, 0x07, 0x01, 0x00, 0x02, 0x04, 0x02]]) := by decide
theorem test_txAck : run .txAck (mk .idle 1 []) = some (.idle, 1, [], false, [.tx ackFrame]) := by decide

/-! ### Witnesses -/

/-- A payload of `n` zero bytes. -/
def zeros (n : Nat) : Bytes := List.replicate n 0

@[simp] theorem zeros_length (n : Nat) : (zeros n).length = n := by simp [zeros]

def short2 : Packet := ⟨0x02, 3, 1, [0x01, 0x02]⟩
def ok3 : Packet := ⟨0x02, 4, 1, [0x01, 5, 3]⟩
def bad3 : Packet := ⟨0x04, 4, 1, [0x02, 5, 3]⟩
def malformed : Packet := ⟨0x01, 2, 1, [0x05, 0x03]⟩

theorem witness_EncodeEmitsTheFrameLayout : pA.encodable = true ∧ ackPkt.encodable = true ∧
    (hostPacket 1 1 (zeros 254)).encodable = true :=
  ⟨by decide, by decide, Packet.encodable_of_wf (hostPacket_wf 1 1 (by simp))⟩
theorem witness_EncodeOfMalformedPacketIsRefused : malformed.encodable = false ∧
    Packet.encodable ⟨0x42, 0, 0, [1]⟩ = false := by decide
theorem witness_DecodeChecksAndReadsTheFrame :
    Codec.decode vmt pollFrame = some pollPacket ∧ Codec.decode vmt (Codec.frame vmt pA) = some pA := by decide
theorem witness_ShortOrUnmarkedBuffersDoNotDecode : ([0xFA, 0xFB, 0x41, 0x00] : Bytes).length < 5 ∧
    State.reset.cfg.k = vmt ∧ ([0xFA, 0xFA, 0x41, 0x00, 0x41] : Bytes).take 2 ≠ [0xFA, 0xFB] := by decide
theorem witness_BytesAfterTheChecksumAreNotRead :
    5 + (byteAt (pollFrame ++ [0x99]) 3).toNat ≤ (pollFrame ++ [0x99]).length := by decide
theorem witness_DecodeOfEncodeIsThePacket : pA.wf = true ∧ ackPkt.wf = true ∧
    (⟨0x42, 0, 0x37, []⟩ : Packet).length = 0 := by decide
theorem witness_EncodeOfDecodedIsTheBufferStart :
    Codec.decode vmt (pollFrame ++ [0x99, 0x12]) = some pollPacket := by decide

/-- V14: the packet whose length byte, flipped, still decodes. -/
def pV14 : Packet := ⟨0x01, 2, 0, [0x33]⟩

theorem witness_SingleBitFlipsAreDetected : pV14.wf = true ∧ 6 < (Codec.frame vmt pV14).length ∧
    (byteAt (flipBit (Codec.frame vmt pV14) 3 1) 3).toNat < pV14.length.toNat ∧
    pV14.length.toNat < (byteAt (flipBit (Codec.frame vmt pV14) 3 7) 3).toNat := by decide
theorem witness_ProperPrefixesOfAFrameDoNotDecode : pA.wf = true ∧ 7 < (Codec.frame vmt pA).length := by decide
theorem witness_RxFrameRunsTheRowOfTheCommand :
    rxOversize State.reset.cfg pollFrame = false ∧ vmt.distinct = true ∧
    (Codec.decode vmt pollFrame).map (·.command) = some vmt.cmdPoll ∧
    (Codec.decode vmt ackFrame).map (·.command) = some vmt.cmdAck ∧
    (Codec.decode vmt (Codec.frame vmt ok3)).map (·.command) = some vmt.cmdStatus ∧
    (Codec.decode vmt (Codec.frame vmt bad3)).map (·.command) = some vmt.cmdReport ∧
    Codec.decode vmt (Codec.frame vmt pC) = some pC ∧ vmt.isOther pC.command = true := by decide
theorem witness_FramingErrorIsOnlyLogged :
    rxOversize State.reset.cfg [] = false ∧ Codec.decode State.reset.cfg.k [] = none := by decide

/-- A configuration with a bounded receive port. -/
def bounded : Config := { Config.vmt with rxMax := some 260 }

theorem witness_OversizeBufferIsRefused : (State.initial bounded).cfg.rxMax = some 260 ∧ 260 < (zeros 261).length :=
  ⟨rfl, by simp⟩
theorem witness_PollSendsTheQueueHead : (mk .idle 1 [pA]).st = .idle ∧ (mk .idle 1 [pA]).q = pA :: [] ∧
    pA.encodable = true := by decide
theorem witness_PollOtherwiseIsAHeartbeat : (mk .awaitData 1 [pA]).st ≠ .idle ∧ (mk .idle 1 []).q = [] := by decide
theorem witness_PollOfAMalformedHeadIsRefused : (mk .idle 1 [malformed]).st = .idle ∧
    (mk .idle 1 [malformed]).q = malformed :: [] ∧ malformed.encodable = false := by decide
theorem witness_AckEventsAndState : (mk .awaitAck 1 [pA]).st = .awaitAck ∧ (mk .idle 1 []).st ≠ .awaitAck := by decide
theorem witness_StatusWithoutCommandChangesNothing : (mk .idle 1 [pA]).st = .idle := by decide
theorem witness_ShortStatusCompletesTheCommand : (mk .awaitData 1 [pA]).st ≠ .idle ∧ (mk .awaitData 1 [pA]).q = pA :: [] ∧
    short2.payload.length < 3 := by decide
theorem witness_StatusOkChainsAConfirmation : (mk .awaitAck 1 [pA, pB]).st ≠ .idle ∧
    (mk .awaitAck 1 [pA, pB]).q = pA :: [pB] ∧ ok3.payload = (mk .awaitAck 1 [pA, pB]).cfg.k.stOk :: 5 :: 3 :: [] := by
  decide
theorem witness_StatusFailureReportsAndCompletes : (mk .awaitData 1 [pA]).st ≠ .idle ∧
    (mk .awaitData 1 [pA]).q = pA :: [] ∧ bad3.payload = 0x02 :: 5 :: 3 :: [] ∧
    (0x02 : Byte) ≠ (mk .awaitData 1 [pA]).cfg.k.stOk := by decide
theorem witness_StatusFailureIsTerminal : ((mk .awaitData 255 [pA]).st ≠ .idle ∧ (mk .awaitData 255 [pA]).q = pA :: []) ∧
    ((mk .awaitAck 1 [pA, pB]).st ≠ .idle ∧ (mk .awaitAck 1 [pA, pB]).q = pA :: [pB]) ∧
    bad3.payload = 0x02 :: 5 :: 3 :: [] ∧ (0x02 : Byte) ≠ (mk .awaitData 255 [pA]).cfg.k.stOk ∧
    (0x02 : Byte) ≠ (mk .awaitAck 1 [pA, pB]).cfg.k.stOk := by decide
theorem witness_ReportThatKeepsWaitingChangesNothing : (mk .idle 1 []).st = .idle ∧ (mk .awaitData 1 [pC]).st ≠ .idle ∧
    short2.payload.length < 3 ∧ ok3.payload = (mk .awaitData 1 [pC]).cfg.k.stOk :: 5 :: 3 :: [] := by decide
theorem witness_TerminalReportReportsAndCompletes : (mk .awaitAck 1 [pC]).st ≠ .idle ∧ (mk .awaitAck 1 [pC]).q = pC :: [] ∧
    bad3.payload = 0x02 :: 5 :: 3 :: [] ∧ (0x02 : Byte) ≠ (mk .awaitAck 1 [pC]).cfg.k.stOk := by decide
theorem witness_ReportIsProgressOrTerminal : (mk .awaitData 1 [pC]).st ≠ .idle ∧ (mk .awaitData 1 [pC]).q = pC :: [] ∧
    ok3.payload = 0x01 :: 5 :: 3 :: [] ∧ (0x01 : Byte) = (mk .awaitData 1 [pC]).cfg.k.stOk ∧
    bad3.payload = 0x02 :: 5 :: 3 :: [] ∧ (0x02 : Byte) ≠ (mk .awaitData 1 [pC]).cfg.k.stOk := by decide
theorem witness_ResultWithoutQueueHeadStops : (mk .awaitData 1 []).st ≠ .idle ∧ (mk .awaitData 1 []).q = [] ∧
    bad3.payload = 0x02 :: 5 :: 3 :: [] ∧ (0x02 : Byte) ≠ (mk .awaitData 1 []).cfg.k.stOk := by decide
theorem witness_UnknownCommandIsAcknowledged : State.reset.cfg.k = vmt ∧
    rxOversize State.reset.cfg (Codec.frame vmt pA) = false ∧ Codec.decode vmt (Codec.frame vmt pA) = some pA ∧
    pA.command ∉ ([0x41, 0x42, 0x02, 0x04] : List Byte) := by decide
theorem witness_HostEnqAppendsAtTheCurrentSequenceNumber : 1 ≤ (zeros 1).length ∧ (zeros 254).length ≤ 254 ∧
    State.reset.cfg.qdepth ≠ some State.reset.q.length :=
  ⟨by simp, by simp, by decide⟩

/-- A full queue of two. -/
def full : State := { mk .awaitAck 4 [pA, pB] with cfg := { Config.vmt with qdepth := some 2 } }

theorem witness_HostEnqRejectionsOnlyLog : 254 < (zeros 255).length ∧ 1 ≤ (zeros 254).length ∧ (zeros 254).length ≤ 254 ∧
    full.cfg.qdepth = some full.q.length :=
  ⟨by simp, by simp, by simp, rfl⟩

/-- A configuration under which DISCONNECT restarts the sequence number. -/
def reinit : Config := { Config.vmt with seqOnDisconnect := .reinit }

theorem witness_DisconnectDiscardsTheQueue : State.reset.cfg.seqOnDisconnect = .keep ∧
    (State.initial reinit).cfg.seqOnDisconnect = .reinit := by decide
theorem witness_TransmitRowsEmitOneFrame : (zeros 0).length ≤ 254 ∧ (zeros 254).length ≤ 254 ∧ 254 < (zeros 255).length := by
  simp
theorem witness_WaitFlagsAreViewsOfTheEngineState : (mk .idle 1 [pA]).st = .idle ∧ (mk .awaitData 1 [pA]).st ≠ .idle ∧
    (mk .awaitData 1 [pA]).q = pA :: [] := by decide
theorem witness_SeqAdvanceReturnsAfter255 : (255 : Byte) ≠ 0 ∧ 0 < 254 ∧ 254 < 255 := by decide
theorem witness_DecodeOfEncodeIsTheInstruction : vmt.distinct = true ∧ Instr.wf vmt (.status ok3) = true ∧
    Instr.wf vmt (.other pC) = true ∧ Instr.wf vmt (.rxInvalid []) = true ∧
    Instr.wf vmt (.txCommand 0x06 1 [0x01]) = true := by decide
theorem witness_DecodedInstructionsAreWellFormed : decode vmt (.rx pollFrame) = .ok (.poll pollPacket) := by decide

/-- A POLL waits at the receive port. -/
def pollPending : State := { mk .idle 1 [pA] with pending := [.port 0 pollFrame] }

theorem witness_StepRunsTheNextRequest : pollPending.pending = .port 0 pollFrame :: [] ∧
    decode pollPending.cfg.k (.port 0 pollFrame) = .ok (.rxFrame pollFrame) := by decide
theorem witness_StepWithoutTransaction : State.reset.pending = [] ∧
    decode vmt (.port 2 [0]) = .error .portCarriesData := by decide
theorem witness_TableWordIsRunNext : State.reset.cfg.k = vmt ∧
    decode vmt (tableRequest vmt 8 0x41) = .ok (.poll pollPacket) ∧
    decodeTableWord 8 0x41 = some (.poll pollPacket) := by decide

theorem witness_InitialStateHasTheInvariant : Config.vmt.wf = true ∧ bounded.wf = true ∧ reinit.wf = true := by decide

theorem pollPending_inv : pollPending.Inv :=
  ⟨by decide, by decide, by decide, by decide, by decide⟩

/-- Also for StepSendsOnlyDecodableFrames and StepEventsComeInOrder. -/
theorem witness_StepKeepsTheInvariant : pollPending.Inv ∧ pollPending.SentFramesDecode ∧
    ∃ t, step pollPending = .next t ∧ t.events ≠ [] :=
  ⟨pollPending_inv, by decide, _, rfl, by decide⟩

theorem witness_NoStepFaultsUnderTheInvariant : pollPending.Inv ∧ pollPending.pending = .port 0 pollFrame :: [] ∧
    decode pollPending.cfg.k (.port 0 pollFrame) = .ok (.rxFrame pollFrame) :=
  ⟨pollPending_inv, rfl, by decide⟩

theorem witness_OnlyReceivedFramesTransmit : (∃ t, exec .reset (mk .idle 1 [pA]) = .next t) ∧
    (∃ t, exec (.hostEnq 1 [5]) (mk .idle 1 [pA]) = .next t) ∧
    ∃ t, exec (.rxFrame pollFrame) (mk .idle 1 [pA]) = .next t ∧ t.st = .awaitAck :=
  ⟨⟨_, rfl⟩, ⟨_, rfl⟩, _, rfl, by decide⟩

theorem witness_OnlyCompletionResetAndReinitWriteSeq :
    (∃ t, exec (.status short2) (mk .awaitData 1 [pA]) = .next t ∧ t.seq ≠ 1) ∧
    (∃ t, exec .reset (mk .awaitData 9 [pA]) = .next t ∧ t.seq ≠ 9) ∧
    ∃ t, exec .disconnect { mk .idle 9 [pA] with cfg := reinit } = .next t ∧ t.seq ≠ 9 :=
  ⟨⟨_, rfl, by decide⟩, ⟨_, rfl, by decide⟩, _, rfl, by decide⟩

/-- Also for RefusalMarkIsSticky and ConfigurationAndInputsAreNotWritten. -/
theorem witness_QueueIsFirstInFirstOut :
    (∃ t, exec (.status ok3) (mk .awaitData 1 [pA, pB]) = .next t ∧ t.q = [pB, pC]) ∧
    ∃ t, exec (.codecEncode malformed) State.reset = .next t ∧ t.refused = true :=
  ⟨⟨_, rfl, by decide⟩, _, rfl, by decide⟩

theorem witness_AwaitAckIsLeftOnlyByAnswersOrReset : (mk .awaitAck 1 [pA]).st = .awaitAck ∧
    ∃ t, exec (.ack ackPkt) (mk .awaitAck 1 [pA]) = .next t ∧ t.st = .awaitData :=
  ⟨rfl, _, rfl, by decide⟩

theorem witness_AwaitDataIsLeftOnlyByResultsOrReset : (mk .awaitData 1 [pA]).st = .awaitData ∧
    ∃ t, exec (.report bad3) (mk .awaitData 1 [pA]) = .next t ∧ t.st = .idle :=
  ⟨rfl, _, rfl, by decide⟩

theorem witness_ReceivedPackNoIsNotRead : ∃ t, exec (.status ok3) (mk .awaitData 1 [pA]) = .next t := ⟨_, rfl⟩

/-- A whole cycle is pending. -/
def oneCycle : PollCycle := ⟨pollFrame, ackFrame, Codec.frame vmt bad3⟩

theorem witness_CyclesDrainTheQueueInOrder :
    (⟨.idle, 1, [pA], false, Config.vmt, oneCycle.requests, [], none, none⟩ : State).Inv ∧
    [oneCycle].length = [pA].length ∧ (∀ y ∈ [oneCycle], y.completes Config.vmt = true) ∧
    oneCycle.requests = [oneCycle].flatMap PollCycle.requests ++ [] :=
  ⟨⟨by decide, by decide, by decide, by decide, by decide⟩, by decide, by decide, by decide⟩

end Sys2Proof.Tests
end

section
/-! PROOFS. DECODE (R95, R96) said once: a buffer decodes exactly when it starts with a frame, and then to the fields of
that frame. -/

namespace Sys2Proof

/-- The four checks of R95 passed: the buffer starts with a frame. (A length byte 0 announces no further byte, so the
first and the third check are one bound.) -/
structure Codec.StartsWithFrame (k : Constants) (buf : Bytes) : Prop where
  enough : 5 + (byteAt buf 3).toNat ≤ buf.length
  magic1 : byteAt buf 0 = k.magic1
  magic2 : byteAt buf 1 = k.magic2
  checksum : byteAt buf (4 + (byteAt buf 3).toNat) = Codec.checksum (buf.take (4 + (byteAt buf 3).toNat))

/-- The fields at their offsets (R60); `packNo` and the payload are absent when the length byte is 0 (R96). -/
def Codec.fields (buf : Bytes) : Packet :=
  if byteAt buf 3 = 0 then ⟨byteAt buf 2, 0, 0, []⟩
  else ⟨byteAt buf 2, byteAt buf 3, byteAt buf 4, slice buf 5 (4 + (byteAt buf 3).toNat)⟩

theorem Codec.fields_of_length_zero {buf : Bytes} (h : byteAt buf 3 = 0) :
    Codec.fields buf = ⟨byteAt buf 2, 0, 0, []⟩ := if_pos h

theorem Codec.fields_of_length_ne_zero {buf : Bytes} (h : byteAt buf 3 ≠ 0) :
    Codec.fields buf = ⟨byteAt buf 2, byteAt buf 3, byteAt buf 4, slice buf 5 (4 + (byteAt buf 3).toNat)⟩ := if_neg h

@[simp] theorem Codec.fields_command (buf : Bytes) : (Codec.fields buf).command = byteAt buf 2 := by
  unfold Codec.fields
  split <;> rfl

@[simp] theorem Codec.fields_length (buf : Bytes) : (Codec.fields buf).length = byteAt buf 3 := by
  by_cases h0 : byteAt buf 3 = 0
  · rw [Codec.fields_of_length_zero h0, h0]
  · rw [Codec.fields_of_length_ne_zero h0]

theorem Codec.decode_of_startsWithFrame {k : Constants} {buf : Bytes} (h : Codec.StartsWithFrame k buf) :
    Codec.decode k buf = some (Codec.fields buf) := by
  obtain ⟨hlen, hm1, hm2, hsum⟩ := h
  have h5 : ¬ buf.length < 5 := by omega
  have hmagic : ¬ (byteAt buf 0 ≠ k.magic1 ∨ byteAt buf 1 ≠ k.magic2) := by simp [hm1, hm2]
  rw [Codec.decode, if_neg h5, if_neg hmagic]
  by_cases h0 : byteAt buf 3 = 0
  · rw [if_pos h0, Codec.fields_of_length_zero h0]
    exact if_pos (by simpa [h0, slice_zero] using hsum)
  · rw [if_neg h0, if_neg (by omega), Codec.fields_of_length_ne_zero h0]
    exact if_pos hsum

theorem Codec.startsWithFrame_of_decode {k : Constants} {buf : Bytes} {p : Packet}
    (h : Codec.decode k buf = some p) : Codec.StartsWithFrame k buf := by
  unfold Codec.decode at h
  split at h
  case isTrue => cases h
  case isFalse h5 =>
  split at h
  case isTrue => cases h
  case isFalse hmagic =>
  obtain ⟨hm1, hm2⟩ : byteAt buf 0 = k.magic1 ∧ byteAt buf 1 = k.magic2 := by simpa using hmagic
  split at h
  case isTrue h0 =>
    split at h
    case isTrue hsum => exact ⟨by simpa [h0] using h5, hm1, hm2, by simpa [h0, slice_zero] using hsum⟩
    case isFalse => cases h
  case isFalse h0 =>
    split at h
    case isTrue => cases h
    case isFalse hlen =>
    split at h
    case isTrue hsum => exact ⟨by omega, hm1, hm2, hsum⟩
    case isFalse => cases h

/-- What DECODE returns, and when. -/
theorem Codec.decode_eq_some_iff {k : Constants} {buf : Bytes} {p : Packet} :
    Codec.decode k buf = some p ↔ Codec.StartsWithFrame k buf ∧ p = Codec.fields buf := by
  constructor
  · intro h
    have hf := Codec.startsWithFrame_of_decode h
    rw [Codec.decode_of_startsWithFrame hf] at h
    exact ⟨hf, (Option.some.inj h).symm⟩
  · rintro ⟨hf, rfl⟩
    exact Codec.decode_of_startsWithFrame hf

theorem Codec.decode_eq_none_iff {k : Constants} {buf : Bytes} :
    Codec.decode k buf = none ↔ ¬ Codec.StartsWithFrame k buf := by
  simp [Option.eq_none_iff_forall_ne_some, Codec.decode_eq_some_iff]

theorem getElem?_eq_some_iff_byteAt {s : Bytes} {i : Nat} {b : Byte} (h : i < s.length) :
    s[i]? = some b ↔ byteAt s i = b := by
  rw [getElem?_eq_byteAt h, Option.some.injEq]

/-- The four checks as R95 orders them, on bytes that may be absent. -/
theorem Codec.startsWithFrame_iff_checks {k : Constants} {buf : Bytes} :
    Codec.StartsWithFrame k buf ↔
      5 ≤ buf.length ∧ (buf[0]? = some k.magic1 ∧ buf[1]? = some k.magic2) ∧
      (0 < (byteAt buf 3).toNat → 5 + (byteAt buf 3).toNat ≤ buf.length) ∧
      buf[4 + (byteAt buf 3).toNat]? = some (Codec.checksum (buf.take (4 + (byteAt buf 3).toNat))) := by
  constructor
  · rintro ⟨hlen, hm1, hm2, hsum⟩
    exact ⟨by omega, ⟨(getElem?_eq_some_iff_byteAt (by omega)).2 hm1, (getElem?_eq_some_iff_byteAt (by omega)).2 hm2⟩,
      fun _ => hlen, (getElem?_eq_some_iff_byteAt (by omega)).2 hsum⟩
  · rintro ⟨h5, ⟨hm1, hm2⟩, hlen, hsum⟩
    exact ⟨by omega, (getElem?_eq_some_iff_byteAt (by omega)).1 hm1, (getElem?_eq_some_iff_byteAt (by omega)).1 hm2,
      (getElem?_eq_some_iff_byteAt (by omega)).1 hsum⟩

theorem Codec.decode_eq_none_iff_check_fails {k : Constants} {buf : Bytes} :
    Codec.decode k buf = none ↔
      buf.length < 5 ∨ (buf[0]? ≠ some k.magic1 ∨ buf[1]? ≠ some k.magic2) ∨
      (0 < (byteAt buf 3).toNat ∧ buf.length < 5 + (byteAt buf 3).toNat) ∨
      buf[4 + (byteAt buf 3).toNat]? ≠ some (Codec.checksum (buf.take (4 + (byteAt buf 3).toNat))) := by
  rw [Codec.decode_eq_none_iff, Codec.startsWithFrame_iff_checks]
  simp only [not_and_or, Classical.not_imp, not_le]

/-- Every field DECODE returns stands at its offset (R60, R96). -/
theorem Codec.decode_reads_fields {k : Constants} {buf : Bytes} {p : Packet} (h : Codec.decode k buf = some p) :
    buf[2]? = some p.command ∧ buf[3]? = some p.length ∧
      ((byteAt buf 3).toNat = 0 → p.packNo = 0 ∧ p.payload = []) ∧
      (0 < (byteAt buf 3).toNat →
        buf[4]? = some p.packNo ∧ p.payload = slice buf 5 (4 + (byteAt buf 3).toNat)) := by
  obtain ⟨hf, rfl⟩ := Codec.decode_eq_some_iff.1 h
  have hlen := hf.enough
  refine ⟨?_, ?_, fun h0 => ?_, fun hpos => ?_⟩
  · rw [Codec.fields_command]
    exact getElem?_eq_byteAt (by omega)
  · rw [Codec.fields_length]
    exact getElem?_eq_byteAt (by omega)
  · rw [Codec.fields_of_length_zero (BitVec.eq_of_toNat_eq h0)]
    exact ⟨rfl, rfl⟩
  · have hne : byteAt buf 3 ≠ 0 := fun h0 => by simp [h0] at hpos
    rw [Codec.fields_of_length_ne_zero hne]
    exact ⟨getElem?_eq_byteAt (by omega), rfl⟩

/-- A buffer that starts with a frame starts with the two magic bytes. -/
theorem Codec.StartsWithFrame.take_two {k : Constants} {buf : Bytes} (h : Codec.StartsWithFrame k buf) :
    buf.take 2 = [k.magic1, k.magic2] := by
  have hlen : 5 ≤ buf.length := Nat.le_of_add_right_le h.enough
  rw [← h.magic1, ← h.magic2]
  match buf with
  | [] | [_] => simp at hlen
  | _ :: _ :: _ => rfl

end Sys2Proof

namespace Sys2Proof.Machine

/-- CODEC_DECODE writes `codecOut` and nothing else. -/
theorem exec_codecDecode (buf : Bytes) (s : State) :
    exec (.codecDecode buf) s = .next { s with codecOut := some (.packet (Codec.decode s.cfg.k buf)) } := rfl

theorem exec_codecDecode_of_not_startsWithFrame {buf : Bytes} {s : State}
    (h : ¬ Codec.StartsWithFrame s.cfg.k buf) :
    exec (.codecDecode buf) s = .next { s with codecOut := some (.packet none) } := by
  rw [exec_codecDecode, Codec.decode_eq_none_iff.2 h]

/-- Settles O7: the four checks are one predicate on the buffer, and a buffer that has it decodes to its fields. -/
theorem decodeChecksAndReadsTheFrame : Obligations.DecodeChecksAndReadsTheFrame := by
  unfold Obligations.DecodeChecksAndReadsTheFrame
  refine ⟨fun s buf => ?_, rfl, rfl, by decide, by decide⟩
  exact ⟨Codec.decode s.cfg.k buf, exec_codecDecode buf s, Codec.decode_eq_none_iff_check_fails,
    fun _ => Codec.decode_reads_fields⟩

/-- Settles O8: a frame has at least 5 bytes, the first two of them the magic bytes. -/
theorem shortOrUnmarkedBuffersDoNotDecode : Obligations.ShortOrUnmarkedBuffersDoNotDecode := by
  unfold Obligations.ShortOrUnmarkedBuffersDoNotDecode
  constructor
  · intro s buf hshort
    refine exec_codecDecode_of_not_startsWithFrame fun hf => ?_
    exact absurd (Nat.le_of_add_right_le hf.enough) (not_le.2 hshort)
  · intro s buf hk hmagic
    refine exec_codecDecode_of_not_startsWithFrame fun hf => hmagic ?_
    rw [hf.take_two, hk]
    rfl

end Sys2Proof.Machine
end

section
/-! PROOFS. The dispatch rules without a branch on the operands: what ACK (R118) and OTHER (R132) do, which received
buffers run OTHER, and the sequence number after an advance (R113). -/

namespace Sys2Proof

/-- R68: a packet whose code is none of the four inbound ones selects OTHER. -/
theorem classify_of_isOther {k : Constants} {p : Packet} (h : k.isOther p.command = true) :
    classify k p = .other p := by
  obtain ⟨⟨⟨hpoll, hack⟩, hstatus⟩, hreport⟩ : ((p.command ≠ k.cmdPoll ∧ p.command ≠ k.cmdAck) ∧
      p.command ≠ k.cmdStatus) ∧ p.command ≠ k.cmdReport := by
    simpa [Constants.isOther] using h
  rw [classify, if_neg hpoll, if_neg hack, if_neg hstatus, if_neg hreport]

/-- R68 with VMT's codes. -/
theorem Constants.vmt_isOther_iff {c : Byte} :
    Constants.vmt.isOther c = true ↔ c ∉ ([0x41, 0x42, 0x02, 0x04] : List Byte) := by
  simp [Constants.isOther, Constants.vmt, and_assoc]

end Sys2Proof

namespace Sys2Proof.Machine

theorem exec_ack (p : Packet) (s : State) : exec (.ack p) s = execAck p s := rfl

/-- OTHER only emits events (R132). -/
theorem exec_other (p : Packet) (s : State) :
    exec (.other p) s = .next (s.emit [.pktRx p, .tx (bareAck s.cfg.k), .log .unknownCommand]) := rfl

/-- R110: an accepted buffer that decodes runs the row its packet selects. -/
theorem exec_rxFrame_of_decode_eq_some {buf : Bytes} {p : Packet} {s : State}
    (hsize : rxOversize s.cfg buf = false) (hd : Codec.decode s.cfg.k buf = some p) :
    exec (.rxFrame buf) s = exec (classify s.cfg.k p) s := by
  obtain ⟨hbig, _⟩ | ⟨_, he⟩ := execRxFrame_cases buf s
  · exact absurd hbig (by simp [hsize])
  · calc exec (.rxFrame buf) s
      _ = exec (decodeRx s.cfg.k buf) s := he
      _ = exec (classify s.cfg.k p) s := by rw [decodeRx, hd]

theorem seqAdvance_of_succ_eq_zero {v : Byte} (h : v + 1 = 0) : seqAdvance v = 1 := if_pos h

theorem seqAdvance_of_succ_ne_zero {v : Byte} (h : v + 1 ≠ 0) : seqAdvance v = v + 1 := if_neg h

/-- R113 in numbers: the successor modulo 256, with 1 in place of 0. -/
theorem seqAdvance_toNat (v : Byte) :
    (seqAdvance v).toNat = if (v.toNat + 1) % 256 = 0 then 1 else (v.toNat + 1) % 256 := by
  have hsucc : (v + 1).toNat = (v.toNat + 1) % 256 := BitVec.toNat_add v 1
  by_cases h : v + 1 = 0
  · have hwrap : (v.toNat + 1) % 256 = 0 := by rw [← hsucc, h]; rfl
    rw [seqAdvance_of_succ_eq_zero h, if_pos hwrap]
    rfl
  · have hne : (v.toNat + 1) % 256 ≠ 0 := fun h0 => h (BitVec.eq_of_toNat_eq (hsucc.trans h0))
    rw [seqAdvance_of_succ_ne_zero h, if_neg hne, hsucc]

/-- Settles O21: the two branches of ACK, each one write of `st` at most and no frame among its events. -/
theorem ackClearsAckWait : Obligations.AckClearsAckWait := by
  unfold Obligations.AckClearsAckWait
  intro s p
  rw [exec_ack]
  obtain ⟨hst, he⟩ | ⟨hst, he⟩ := execAck_cases p s
  · exact ⟨_, [.pktRx p], he, rfl, rfl, rfl, rfl, rfl,
      fun _ => ⟨rfl, rfl, rfl, by simp⟩, fun hne => absurd hst hne⟩
  · exact ⟨_, [.pktRx p, .log .unexpectedAck], he, rfl, rfl, rfl, rfl, rfl,
      fun heq => absurd heq hst, fun _ => ⟨rfl, by simp⟩⟩

/-- Settles O32: a code outside the four selects OTHER, and OTHER emits the bare ACK and the log entry alone. -/
theorem unknownCommandIsAcknowledged : Obligations.UnknownCommandIsAcknowledged := by
  unfold Obligations.UnknownCommandIsAcknowledged
  intro s buf p hk hsize hd hcommand
  have hother : s.cfg.k.isOther p.command = true := by
    rw [hk]
    exact Constants.vmt_isOther_iff.2 hcommand
  constructor
  · rw [exec_rxFrame_of_decode_eq_some hsize hd, classify_of_isOther hother]
  · exact ⟨_, _, exec_other p s, rfl, rfl, by simp, rfl, rfl, rfl, rfl⟩

/-- Settles O38: an advance never gives 0, and gives the successor modulo 256 with 1 in place of 0. -/
theorem seqAdvanceSkipsZero : Obligations.SeqAdvanceSkipsZero := by
  unfold Obligations.SeqAdvanceSkipsZero
  exact fun v => ⟨seqAdvance_ne_zero v, seqAdvance_toNat v⟩

end Sys2Proof.Machine
end

section
/-! PROOFS. The host operations: when the queue is full (R143), and what an accepted HOST_ENQ does (R140, R141). -/

namespace Sys2Proof.Machine

theorem exec_hostEnq (c : Byte) (payload : Bytes) (s : State) :
    exec (.hostEnq c payload) s = execHostEnq c payload s := rfl

/-- R143 as a fact about QDEPTH: only a finite one is ever reached. -/
theorem queueFull_iff {c : Config} {n : Nat} : queueFull c n = true ↔ c.qdepth = some n := by
  unfold queueFull
  cases c.qdepth with
  | none => simp
  | some d => simp [eq_comm]

/-- R141: past the three checks of R140, HOST_ENQ writes `q` and nothing else. -/
theorem exec_hostEnq_of_accepted (c : Byte) {payload : Bytes} {s : State} (hpos : 1 ≤ payload.length)
    (hmax : payload.length ≤ 254) (hroom : s.cfg.qdepth ≠ some s.q.length) :
    exec (.hostEnq c payload) s = .next { s with q := s.q ++ [hostPacket c s.seq payload] } := by
  rw [exec_hostEnq]
  obtain ⟨hempty, _⟩ | ⟨hlong, _⟩ | ⟨_, _, hfull, _⟩ | ⟨_, _, _, he⟩ := execHostEnq_cases c payload s
  · omega
  · omega
  · exact absurd (queueFull_iff.1 hfull) hroom
  · exact he

/-- Settles O33: the appended packet is `hostPacket` at `seq`, whose length byte does not wrap up to 254 payload bytes. -/
theorem hostEnqAppendsAtTheCurrentSequenceNumber : Obligations.HostEnqAppendsAtTheCurrentSequenceNumber := by
  unfold Obligations.HostEnqAppendsAtTheCurrentSequenceNumber
  intro s commandType payload hpos hmax hroom
  exact ⟨(hostPacket commandType s.seq payload).length, hostPacket_length_toNat commandType s.seq hmax,
    exec_hostEnq_of_accepted commandType hpos hmax hroom⟩

end Sys2Proof.Machine
end

section
/-! PROOFS. The round trip of the codec (R99) and what damage to a frame DECODE detects (R97, R100, R188): every argument
goes through `Codec.StartsWithFrame`. -/

namespace Sys2Proof

theorem toNat_pos_of_ne_zero {v : Byte} (h : v ≠ 0) : 0 < v.toNat :=
  Nat.pos_of_ne_zero fun hz => h (BitVec.eq_of_toNat_eq hz)

/-! The bytes of a frame (R60) -/

@[simp] theorem byteAt_frame_zero (k : Constants) (p : Packet) : byteAt (Codec.frame k p) 0 = k.magic1 := rfl
@[simp] theorem byteAt_frame_one (k : Constants) (p : Packet) : byteAt (Codec.frame k p) 1 = k.magic2 := rfl
@[simp] theorem byteAt_frame_two (k : Constants) (p : Packet) : byteAt (Codec.frame k p) 2 = p.command := rfl
@[simp] theorem byteAt_frame_three (k : Constants) (p : Packet) : byteAt (Codec.frame k p) 3 = p.length := rfl

theorem Codec.body_of_length_zero (k : Constants) {p : Packet} (h : p.length = 0) :
    Codec.body k p = [k.magic1, k.magic2, p.command, 0] := by
  simp [Codec.body, h]

theorem Codec.body_of_length_ne_zero (k : Constants) {p : Packet} (h : p.length ≠ 0) :
    Codec.body k p = k.magic1 :: k.magic2 :: p.command :: p.length :: p.packNo :: p.payload := by
  rw [Codec.body, if_neg h]
  rfl

theorem Codec.frame_take_body (k : Constants) {p : Packet} (h : p.encodable = true) :
    (Codec.frame k p).take (4 + p.length.toNat) = Codec.body k p :=
  List.take_left' (Codec.body_length k h)

/-- ENCODE does not read the packNo of a packet of length 0 (R93). -/
theorem Codec.frame_unused_packNo (k : Constants) {p : Packet} (n : Byte) (h : p.length = 0) :
    Codec.frame k { p with packNo := n } = Codec.frame k p := by
  have hbody : Codec.body k { p with packNo := n } = Codec.body k p := by
    rw [Codec.body_of_length_zero k h, Codec.body_of_length_zero k (p := { p with packNo := n }) h]
  rw [Codec.frame, Codec.frame, hbody]

/-! DECODE of ENCODE -/

theorem Codec.frame_startsWithFrame (k : Constants) {p : Packet} (h : p.encodable = true) :
    Codec.StartsWithFrame k (Codec.frame k p) where
  enough := by rw [byteAt_frame_three, Codec.frame_length k h]
  magic1 := byteAt_frame_zero k p
  magic2 := byteAt_frame_one k p
  checksum := by
    rw [byteAt_frame_three, Codec.frame_take_body k h, ← Codec.body_length k h]
    exact byteAt_append_length _ [] _

theorem Codec.fields_frame (k : Constants) {p : Packet} (h : p.wf = true) : Codec.fields (Codec.frame k p) = p := by
  obtain ⟨h0, hn, hp⟩ | ⟨h0, hp⟩ := Packet.wf_cases h
  · rw [Codec.fields_of_length_zero (byteAt_frame_three k p ▸ h0), byteAt_frame_two]
    cases p
    simp_all
  · have hbyte4 : byteAt (Codec.frame k p) 4 = p.packNo := by
      rw [Codec.frame, Codec.body_of_length_ne_zero k h0]
      rfl
    have hpayload : slice (Codec.frame k p) 5 (4 + p.length.toNat) = p.payload := by
      rw [slice, Codec.frame_take_body k (Packet.encodable_of_wf h), Codec.body_of_length_ne_zero k h0]
      rfl
    rw [Codec.fields_of_length_ne_zero (byteAt_frame_three k p ▸ h0), byteAt_frame_two, byteAt_frame_three, hbyte4,
      hpayload]

/-- R99: DECODE of ENCODE. -/
theorem Codec.decode_frame (k : Constants) {p : Packet} (h : p.wf = true) :
    Codec.decode k (Codec.frame k p) = some p :=
  Codec.decode_eq_some_iff.2
    ⟨Codec.frame_startsWithFrame k (Packet.encodable_of_wf h), (Codec.fields_frame k h).symm⟩

/-! ENCODE of DECODE -/

theorem Codec.fields_wf {k : Constants} {buf : Bytes} (h : Codec.StartsWithFrame k buf) :
    (Codec.fields buf).wf = true := by
  have hlen := h.enough
  by_cases h0 : byteAt buf 3 = 0
  · rw [Codec.fields_of_length_zero h0]
    rfl
  · have hpos := toNat_pos_of_ne_zero h0
    rw [Codec.fields_of_length_ne_zero h0, Packet.wf, if_neg h0, decide_eq_true_eq, slice_length,
      min_eq_left (by omega)]
    dsimp only
    omega

theorem take_succ_eq_take_append_byteAt {s : Bytes} {n : Nat} (h : n < s.length) :
    s.take (n + 1) = s.take n ++ [byteAt s n] := by
  rw [List.take_add_one, getElem?_eq_byteAt h, Option.toList_some]

theorem Codec.body_fields {k : Constants} {buf : Bytes} (h : Codec.StartsWithFrame k buf) :
    Codec.body k (Codec.fields buf) = buf.take (4 + (byteAt buf 3).toNat) := by
  have hlen : 5 ≤ buf.length := Nat.le_of_add_right_le h.enough
  obtain ⟨_, hm1, hm2, _⟩ := h
  by_cases h0 : byteAt buf 3 = 0
  · rw [Codec.fields_of_length_zero h0, Codec.body_of_length_zero k rfl, ← hm1, ← hm2, h0]
    match buf with
    | _ :: _ :: _ :: l :: _ :: _ =>
      obtain rfl : l = 0 := h0
      rfl
  · obtain ⟨j, hj⟩ := Nat.exists_eq_succ_of_ne_zero (toNat_pos_of_ne_zero h0).ne'
    rw [Codec.fields_of_length_ne_zero h0, Codec.body_of_length_ne_zero k h0, ← hm1, ← hm2, hj]
    match buf with
    | _ :: _ :: _ :: _ :: _ :: _ => simp [byteAt, slice, Nat.add_comm 4]

/-- R99, converse: the frame of what DECODE returns is the start of the buffer. -/
theorem Codec.frame_fields {k : Constants} {buf : Bytes} (h : Codec.StartsWithFrame k buf) :
    Codec.frame k (Codec.fields buf) = buf.take (5 + (byteAt buf 3).toNat) := by
  have hlen := h.enough
  rw [Codec.frame, Codec.body_fields h, ← h.checksum, ← take_succ_eq_take_append_byteAt (by omega)]
  congr 1
  omega

/-! Bytes after the checksum (R97) -/

theorem Codec.startsWithFrame_take_iff {k : Constants} {buf : Bytes} (h : 5 + (byteAt buf 3).toNat ≤ buf.length) :
    Codec.StartsWithFrame k (buf.take (5 + (byteAt buf 3).toNat)) ↔ Codec.StartsWithFrame k buf := by
  have hbyte : ∀ i ≤ 4 + (byteAt buf 3).toNat, byteAt (buf.take (5 + (byteAt buf 3).toNat)) i = byteAt buf i :=
    fun i hi => byteAt_take (by omega)
  have hbody : (buf.take (5 + (byteAt buf 3).toNat)).take (4 + (byteAt buf 3).toNat) =
      buf.take (4 + (byteAt buf 3).toNat) := by
    rw [List.take_take, min_eq_left (by omega)]
  have h3 := hbyte 3 (by omega)
  constructor
  · rintro ⟨_, hm1, hm2, hsum⟩
    rw [h3, hbody, hbyte _ le_rfl] at hsum
    exact ⟨h, hbyte 0 (by omega) ▸ hm1, hbyte 1 (by omega) ▸ hm2, hsum⟩
  · rintro ⟨_, hm1, hm2, hsum⟩
    refine ⟨?_, (hbyte 0 (by omega)).trans hm1, (hbyte 1 (by omega)).trans hm2, ?_⟩
    · rw [h3, List.length_take, min_eq_left h]
    · rw [h3, hbody, hbyte _ le_rfl, hsum]

theorem Codec.fields_take (buf : Bytes) :
    Codec.fields (buf.take (5 + (byteAt buf 3).toNat)) = Codec.fields buf := by
  have hbyte : ∀ i < 5, byteAt (buf.take (5 + (byteAt buf 3).toNat)) i = byteAt buf i :=
    fun i hi => byteAt_take (by omega)
  have hbody : slice (buf.take (5 + (byteAt buf 3).toNat)) 5 (4 + (byteAt buf 3).toNat) =
      slice buf 5 (4 + (byteAt buf 3).toNat) := by
    rw [slice, slice, List.take_take, min_eq_left (by omega)]
  rw [Codec.fields, Codec.fields, hbyte 2 (by decide), hbyte 3 (by decide), hbyte 4 (by decide), hbody]

theorem Codec.decode_take {k : Constants} {buf : Bytes} (h : 5 + (byteAt buf 3).toNat ≤ buf.length) :
    Codec.decode k (buf.take (5 + (byteAt buf 3).toNat)) = Codec.decode k buf := by
  refine Option.ext fun p => ?_
  rw [Codec.decode_eq_some_iff, Codec.decode_eq_some_iff, Codec.startsWithFrame_take_iff h, Codec.fields_take]

/-! Proper prefixes (R188) -/

theorem Codec.decode_proper_prefix {k : Constants} {p : Packet} {n : Nat} (hp : p.encodable = true)
    (hn : n < (Codec.frame k p).length) : Codec.decode k ((Codec.frame k p).take n) = none := by
  refine Codec.decode_eq_none_iff.2 fun hf => ?_
  have hlen := hf.enough
  rw [List.length_take, min_eq_left hn.le] at hlen
  rw [byteAt_take (by omega), byteAt_frame_three] at hlen
  rw [Codec.frame_length k hp] at hn
  omega

/-! Single flipped bits (R100) -/

/-- R90: the XOR of a frame with its own checksum is 0. -/
theorem Codec.StartsWithFrame.checksum_take {k : Constants} {buf : Bytes} (h : Codec.StartsWithFrame k buf) :
    Codec.checksum (buf.take (5 + (byteAt buf 3).toNat)) = 0 := by
  have hlen := h.enough
  have hsplit : buf.take (5 + (byteAt buf 3).toNat) = buf.take (4 + (byteAt buf 3).toNat) ++
      [byteAt buf (4 + (byteAt buf 3).toNat)] := by
    rw [← take_succ_eq_take_append_byteAt (by omega)]
    congr 1
    omega
  rw [hsplit, Codec.checksum_append, h.checksum]
  simp

/-- A replaced byte changes the fold by the XOR of the old and the new byte. -/
theorem Codec.checksum_set {s : Bytes} {i : Nat} (h : i < s.length) (x : Byte) :
    Codec.checksum (s.set i (byteAt s i ^^^ x)) = Codec.checksum s ^^^ x := by
  induction s generalizing i with
  | nil => simp at h
  | cons b s ih =>
    cases i with
    | zero =>
      simp only [byteAt, List.getD_cons_zero, List.set_cons_zero, Codec.checksum_cons]
      rw [BitVec.xor_assoc, BitVec.xor_comm x, BitVec.xor_assoc]
    | succ i =>
      have hs := ih (Nat.lt_of_succ_lt_succ h)
      simp only [byteAt, List.getD_cons_succ, List.set_cons_succ, Codec.checksum_cons] at hs ⊢
      rw [hs, BitVec.xor_assoc]

end Sys2Proof

namespace Sys2Proof.Machine

@[simp] theorem flipBit_length (f : Bytes) (i b : Nat) : (flipBit f i b).length = f.length := by
  simp [flipBit]

theorem byteAt_flipBit_of_ne (f : Bytes) {i j : Nat} (b : Nat) (h : i ≠ j) :
    byteAt (flipBit f i b) j = byteAt f j := by
  simp [flipBit, byteAt, List.getElem?_set_ne h]

theorem checksum_flipBit {f : Bytes} {i : Nat} (b : Nat) (h : i < f.length) :
    Codec.checksum (flipBit f i b) = Codec.checksum f ^^^ (1#8 <<< b) := Codec.checksum_set h _

theorem one_shiftLeft_ne_zero {b : Nat} (h : b < 8) : (1#8 <<< b) ≠ 0 := by
  decide +revert

section FlippedFrame

variable {k : Constants} {p : Packet} {i b : Nat}

/-- Away from the length byte the damaged buffer has the length it announces, and its fold is the flipped bit. -/
theorem decode_flipBit_of_ne_three (hp : p.wf = true) (hi : i < (Codec.frame k p).length) (hb : b < 8) (h3 : i ≠ 3) :
    Codec.decode k (flipBit (Codec.frame k p) i b) = none := by
  have henc := Packet.encodable_of_wf hp
  refine Codec.decode_eq_none_iff.2 fun hf => one_shiftLeft_ne_zero hb ?_
  have hfold : Codec.checksum (flipBit (Codec.frame k p) i b) = 0 := by
    have := hf.checksum_take
    rwa [byteAt_flipBit_of_ne _ b h3, byteAt_frame_three, ← Codec.frame_length k henc,
      ← flipBit_length (Codec.frame k p) i b, List.take_length] at this
  have hframe : Codec.checksum (Codec.frame k p) = 0 := by
    have := (Codec.frame_startsWithFrame k henc).checksum_take
    rwa [byteAt_frame_three, ← Codec.frame_length k henc, List.take_length] at this
  rw [checksum_flipBit b hi, hframe] at hfold
  simpa using hfold

theorem decode_flipBit_of_longer (hp : p.wf = true)
    (hgrow : p.length.toNat < (byteAt (flipBit (Codec.frame k p) i b) 3).toNat) :
    Codec.decode k (flipBit (Codec.frame k p) i b) = none := by
  refine Codec.decode_eq_none_iff.2 fun hf => ?_
  have hlen := hf.enough
  rw [flipBit_length, Codec.frame_length k (Packet.encodable_of_wf hp)] at hlen
  omega

/-- With a shorter length byte only the byte at the new checksum offset is left to decide. -/
theorem decode_flipBit_of_shorter (hp : p.wf = true) (h3 : i = 3)
    (hshrink : (byteAt (flipBit (Codec.frame k p) i b) 3).toNat < p.length.toNat) :
    (Codec.decode k (flipBit (Codec.frame k p) i b)).isSome = true ↔
      (flipBit (Codec.frame k p) i b)[4 + (byteAt (flipBit (Codec.frame k p) i b) 3).toNat]? =
        some (Codec.checksum ((flipBit (Codec.frame k p) i b).take
          (4 + (byteAt (flipBit (Codec.frame k p) i b) 3).toNat))) := by
  have hlen : (flipBit (Codec.frame k p) i b).length = 5 + p.length.toNat := by
    rw [flipBit_length, Codec.frame_length k (Packet.encodable_of_wf hp)]
  have hm1 : byteAt (flipBit (Codec.frame k p) i b) 0 = k.magic1 := by
    rw [byteAt_flipBit_of_ne _ b (by omega), byteAt_frame_zero]
  have hm2 : byteAt (flipBit (Codec.frame k p) i b) 1 = k.magic2 := by
    rw [byteAt_flipBit_of_ne _ b (by omega), byteAt_frame_one]
  rw [getElem?_eq_some_iff_byteAt (by omega), Option.isSome_iff_ne_none, Ne, Codec.decode_eq_none_iff, not_not]
  exact ⟨fun hf => hf.checksum, fun hsum => ⟨by omega, hm1, hm2, hsum⟩⟩

end FlippedFrame

/-- Settles O10: the fields of a frame are the packet, and a frame of length 0 does not hold the packNo. -/
theorem decodeOfEncodeIsThePacket : Obligations.DecodeOfEncodeIsThePacket := by
  unfold Obligations.DecodeOfEncodeIsThePacket
  constructor
  · intro k p hp
    exact ⟨_, Codec.encode_of_encodable k (Packet.encodable_of_wf hp), Codec.decode_frame k hp⟩
  · intro k p h0 hp
    have henc : p.encodable = true := by simp [Packet.encodable, h0, hp]
    have hwf : ({ p with packNo := 0 } : Packet).wf = true := by simp [Packet.wf, h0, hp]
    refine ⟨_, Codec.encode_of_encodable k henc, ?_⟩
    rw [← Codec.frame_unused_packNo k 0 h0, Codec.decode_frame k hwf]

/-- Settles O11: the body of the decoded fields is the buffer up to the checksum, and DECODE has compared the checksum. -/
theorem encodeOfDecodedIsTheBufferStart : Obligations.EncodeOfDecodedIsTheBufferStart := by
  unfold Obligations.EncodeOfDecodedIsTheBufferStart
  intro k buf p h
  obtain ⟨hf, rfl⟩ := Codec.decode_eq_some_iff.1 h
  have hwf := Codec.fields_wf hf
  refine ⟨hwf, ?_⟩
  rw [Codec.encode_of_encodable k (Packet.encodable_of_wf hwf), Codec.frame_fields hf, Codec.fields_length]

/-- Settles O9: the checks of R95 and the fields lie within the announced frame. -/
theorem bytesAfterTheChecksumAreNotRead : Obligations.BytesAfterTheChecksumAreNotRead := by
  unfold Obligations.BytesAfterTheChecksumAreNotRead
  exact fun k buf h => (Codec.decode_take h).symm

/-- Settles O12: the fold of a frame is 0 and the flipped bit is not; a flip of the length byte moves the checksum. -/
theorem singleBitFlipsAreDetected : Obligations.SingleBitFlipsAreDetected := by
  unfold Obligations.SingleBitFlipsAreDetected
  intro k p i b hp hi hb
  exact ⟨decode_flipBit_of_ne_three hp hi hb,
    fun h3 => ⟨decode_flipBit_of_longer hp, decode_flipBit_of_shorter hp h3⟩⟩

/-- Settles O13: a frame cut short has fewer bytes than its length byte announces. -/
theorem properPrefixesOfAFrameDoNotDecode : Obligations.ProperPrefixesOfAFrameDoNotDecode := by
  unfold Obligations.ProperPrefixesOfAFrameDoNotDecode
  exact fun k p n hp hn => Codec.decode_proper_prefix (Packet.encodable_of_wf hp) hn

theorem exec_codecChecksum (bs : Bytes) (s : State) :
    exec (.codecChecksum bs) s = .next { s with codecOut := some (.checksum (Codec.checksum bs)) } := rfl

theorem exec_codecEncode_of_encodable {p : Packet} (s : State) (h : p.encodable = true) :
    exec (.codecEncode p) s = .next { s with codecOut := some (.frame (Codec.frame s.cfg.k p)) } := by
  simp [exec, execCodecEncode, Codec.encode_of_encodable s.cfg.k h]

theorem exec_codecEncode_of_not_encodable {p : Packet} (s : State) (h : p.encodable = false) :
    exec (.codecEncode p) s = .next (s.refuse .encMalformed) := by
  simp [exec, execCodecEncode, Codec.encode_of_not_encodable s.cfg.k h]

/-- Settles O4: the fold turns `++` into XOR, which is commutative and cancels itself. -/
theorem checksumIsTheXorFold : Obligations.ChecksumIsTheXorFold := by
  unfold Obligations.ChecksumIsTheXorFold
  refine ⟨fun s bs => exec_codecChecksum bs s, rfl, fun bs => by simp, fun as bs h => ?_, fun as bs cs b => ?_⟩
  · have : RightCommutative (α := Byte) (β := Byte) (· ^^^ ·) :=
      ⟨fun a b c => by rw [BitVec.xor_assoc, BitVec.xor_comm b, BitVec.xor_assoc]⟩
    exact h.foldl_eq 0
  · have hcancel : b ^^^ (Codec.checksum bs ^^^ (b ^^^ Codec.checksum cs)) =
        Codec.checksum bs ^^^ Codec.checksum cs := by
      rw [← BitVec.xor_assoc (Codec.checksum bs), BitVec.xor_comm _ b, BitVec.xor_assoc, ← BitVec.xor_assoc b b,
        BitVec.xor_self, BitVec.zero_xor]
    simp [hcancel]

/-- Settles O5: the layout is `Codec.body` and its checksum. -/
theorem encodeEmitsTheFrameLayout : Obligations.EncodeEmitsTheFrameLayout := by
  unfold Obligations.EncodeEmitsTheFrameLayout
  refine ⟨fun s p hp => ?_, rfl, rfl⟩
  have hlayout : Codec.body s.cfg.k p = [s.cfg.k.magic1, s.cfg.k.magic2, p.command, p.length] ++
      (if 0 < p.length.toNat then p.packNo :: p.payload else []) := by
    by_cases h0 : p.length = 0
    · simp [Codec.body, h0]
    · rw [Codec.body, if_neg h0, if_pos (toNat_pos_of_ne_zero h0)]
  have hlen := Codec.frame_length s.cfg.k hp
  exact ⟨_, _, exec_codecEncode_of_encodable s hp, hlayout, rfl, hlen, by omega⟩

/-- Settles O6. -/
theorem encodeOfMalformedPacketIsRefused : Obligations.EncodeOfMalformedPacketIsRefused := by
  unfold Obligations.EncodeOfMalformedPacketIsRefused
  exact fun s p hp => exec_codecEncode_of_not_encodable s hp

end Sys2Proof.Machine
end

section
/-! PROOFS. The decoder and the encoder of instructions: which row a packet selects (R68), which emitted frame is which row
(R76), and that decoding gives exactly the well-formed instructions. -/

namespace Sys2Proof

/-- The six comparisons of R68. -/
structure Constants.Distinct (k : Constants) : Prop where
  poll_ack : k.cmdPoll ≠ k.cmdAck
  poll_status : k.cmdPoll ≠ k.cmdStatus
  poll_report : k.cmdPoll ≠ k.cmdReport
  ack_status : k.cmdAck ≠ k.cmdStatus
  ack_report : k.cmdAck ≠ k.cmdReport
  status_report : k.cmdStatus ≠ k.cmdReport

theorem Constants.Distinct.of_distinct {k : Constants} (h : k.distinct = true) : k.Distinct := by
  simp only [Constants.distinct, Bool.and_eq_true, bne_iff_ne] at h
  obtain ⟨⟨⟨⟨⟨h1, h2⟩, h3⟩, h4⟩, h5⟩, h6⟩ := h
  exact ⟨h1, h2, h3, h4, h5, h6⟩

/-! The row a packet selects -/

theorem classify_of_poll {k : Constants} {p : Packet} (h : p.command = k.cmdPoll) : classify k p = .poll p :=
  if_pos h

theorem classify_of_ack {k : Constants} {p : Packet} (hk : k.Distinct) (h : p.command = k.cmdAck) :
    classify k p = .ack p := by
  rw [classify, h, if_neg hk.poll_ack.symm, if_pos rfl]

theorem classify_of_status {k : Constants} {p : Packet} (hk : k.Distinct) (h : p.command = k.cmdStatus) :
    classify k p = .status p := by
  rw [classify, h, if_neg hk.poll_status.symm, if_neg hk.ack_status.symm, if_pos rfl]

theorem classify_of_report {k : Constants} {p : Packet} (hk : k.Distinct) (h : p.command = k.cmdReport) :
    classify k p = .report p := by
  rw [classify, h, if_neg hk.poll_report.symm, if_neg hk.ack_report.symm, if_neg hk.status_report.symm, if_pos rfl]

theorem decodeRx_frame (k : Constants) {p : Packet} (h : p.wf = true) :
    decodeRx k (Codec.frame k p) = classify k p := by
  rw [decodeRx, Codec.decode_frame k h]

theorem decodeRx_of_decode_eq_none {k : Constants} {buf : Bytes} (h : Codec.decode k buf = none) :
    decodeRx k buf = .rxInvalid buf := by
  rw [decodeRx, h]

theorem decodeRx_of_decode_eq_some {k : Constants} {buf : Bytes} {p : Packet} (h : Codec.decode k buf = some p) :
    decodeRx k buf = classify k p := by
  rw [decodeRx, h]

/-! The row of an emitted frame -/

theorem decodeTx_frame (k : Constants) {p : Packet} (h : p.wf = true) :
    decodeTx k (Codec.frame k p) = classifyTx k p := by
  rw [decodeTx, Codec.decode_frame k h]
  exact if_pos (Codec.frame_length k (Packet.encodable_of_wf h))

theorem classifyTx_ackPacket (k : Constants) : classifyTx k (ackPacket k) = .ok .txAck := by
  simp [classifyTx, ackPacket]

theorem classifyTx_confirmation (k : Constants) (n row col : Byte) :
    classifyTx k (confirmation k n row col) = .ok (.txConfirm n row col) := by
  simp [classifyTx, confirmation, Constants.confirmShape, byteAt]

theorem classifyTx_hostPacket {k : Constants} {c n : Byte} {payload : Bytes} (hpos : 1 ≤ payload.length)
    (hshape : k.confirmShape c payload = false) :
    classifyTx k (hostPacket c n payload) = .ok (.txCommand c n payload) := by
  have hne : payload ≠ [] := List.ne_nil_of_length_pos hpos
  simp [classifyTx, hostPacket, hne, hshape]

/-! What the decoder gives is well-formed -/

theorem classify_wf (k : Constants) {p : Packet} (h : p.wf = true) : (classify k p).wf k = true := by
  unfold classify
  split
  case isTrue hpoll => simp [Instr.wf, h, hpoll]
  case isFalse hpoll =>
  split
  case isTrue hack => simp [Instr.wf, h, hack]
  case isFalse hack =>
  split
  case isTrue hstatus => simp [Instr.wf, h, hstatus]
  case isFalse hstatus =>
  split
  case isTrue hreport => simp [Instr.wf, h, hreport]
  case isFalse hreport => simp [Instr.wf, Constants.isOther, h, hpoll, hack, hstatus, hreport]

/-- R94: a decoded packet is well-formed. -/
theorem Codec.decode_wf {k : Constants} {buf : Bytes} {p : Packet} (h : Codec.decode k buf = some p) :
    p.wf = true := by
  obtain ⟨hf, rfl⟩ := Codec.decode_eq_some_iff.1 h
  exact Codec.fields_wf hf

theorem decodeRx_wf (k : Constants) (buf : Bytes) : (decodeRx k buf).wf k = true := by
  cases hd : Codec.decode k buf with
  | none =>
    rw [decodeRx_of_decode_eq_none hd]
    simp [Instr.wf, hd]
  | some p =>
    rw [decodeRx_of_decode_eq_some hd]
    exact classify_wf k (Codec.decode_wf hd)

theorem Packet.payload_length_le {p : Packet} (h : p.wf = true) : p.payload.length ≤ 254 := by
  have hlt := p.length.isLt
  obtain ⟨_, _, hp⟩ | ⟨_, hp⟩ := Packet.wf_cases h
  · simp [hp]
  · omega

theorem classifyTx_wf {k : Constants} {p : Packet} {i : Instr} (hp : p.wf = true) (h : classifyTx k p = .ok i) :
    i.wf k = true := by
  unfold classifyTx at h
  split at h
  case isTrue =>
    split at h <;> cases h
    rfl
  case isFalse hne =>
    split at h <;> cases h
    case isTrue => rfl
    case isFalse hshape =>
      have hpos : 1 ≤ p.payload.length := List.length_pos_iff.2 hne
      simp [Instr.wf, hpos, Packet.payload_length_le hp, hshape]

theorem decodeTx_wf {k : Constants} {frame : Bytes} {i : Instr} (h : decodeTx k frame = .ok i) : i.wf k = true := by
  unfold decodeTx at h
  split at h
  case h_1 => cases h
  case h_2 p hd =>
    split at h
    case isTrue => exact classifyTx_wf (Codec.decode_wf hd) h
    case isFalse => cases h

theorem decodePort_wf {k : Constants} {code : BitVec 2} {data : Bytes} {i : Instr} (h : decodePort code data = .ok i) :
    i.wf k = true := by
  unfold decodePort at h
  split at h
  · cases h
    rfl
  · split at h <;> split at h <;> cases h
    · rfl
    · split <;> rfl

theorem decodeFn_wf {k : Constants} {f : CodecFn} {data : Bytes} {i : Instr} (h : decodeFn f data = .ok i) :
    i.wf k = true := by
  unfold decodeFn at h
  split at h <;> cases h <;> rfl

/-- Settles O42: a frame decodes to its packet, and the packet's command, or its shape, selects the row it came from. -/
theorem decodeOfEncodeIsTheInstruction : Obligations.DecodeOfEncodeIsTheInstruction := by
  unfold Obligations.DecodeOfEncodeIsTheInstruction
  intro k i hk hi
  have hne := Constants.Distinct.of_distinct hk
  cases i with
  | poll p =>
    obtain ⟨hp, hc⟩ : p.wf = true ∧ p.command = k.cmdPoll := by simpa [Instr.wf] using hi
    rw [encode, decode, decodeRx_frame k hp, classify_of_poll hc]
  | ack p =>
    obtain ⟨hp, hc⟩ : p.wf = true ∧ p.command = k.cmdAck := by simpa [Instr.wf] using hi
    rw [encode, decode, decodeRx_frame k hp, classify_of_ack hne hc]
  | status p =>
    obtain ⟨hp, hc⟩ : p.wf = true ∧ p.command = k.cmdStatus := by simpa [Instr.wf] using hi
    rw [encode, decode, decodeRx_frame k hp, classify_of_status hne hc]
  | report p =>
    obtain ⟨hp, hc⟩ : p.wf = true ∧ p.command = k.cmdReport := by simpa [Instr.wf] using hi
    rw [encode, decode, decodeRx_frame k hp, classify_of_report hne hc]
  | other p =>
    obtain ⟨hp, hc⟩ : p.wf = true ∧ k.isOther p.command = true := by simpa [Instr.wf] using hi
    rw [encode, decode, decodeRx_frame k hp, classify_of_isOther hc]
  | rxInvalid buf =>
    have hd : Codec.decode k buf = none := by simpa [Instr.wf] using hi
    rw [encode, decode, decodeRx_of_decode_eq_none hd]
  | rxFrame buf => rfl
  | hostEnq c payload => rfl
  | disconnect => rfl
  | reset => rfl
  | codecChecksum bs => rfl
  | codecEncode p => rfl
  | codecDecode buf => rfl
  | txAck => rw [encode, decode, bareAck, decodeTx_frame k (ackPacket_wf k), classifyTx_ackPacket]
  | txCommand c n payload =>
    obtain ⟨⟨hpos, hmax⟩, hshape⟩ : (1 ≤ payload.length ∧ payload.length ≤ 254) ∧
        k.confirmShape c payload = false := by simpa [Instr.wf, maxPayload] using hi
    rw [encode, decode, decodeTx_frame k (hostPacket_wf c n hmax), classifyTx_hostPacket hpos hshape]
  | txConfirm n row col =>
    rw [encode, decode, decodeTx_frame k (confirmation_wf k n row col), classifyTx_confirmation]

/-- Settles O43, by the format of the request. -/
theorem decodedInstructionsAreWellFormed : Obligations.DecodedInstructionsAreWellFormed := by
  unfold Obligations.DecodedInstructionsAreWellFormed
  intro k r i h
  cases r with
  | port code data => exact decodePort_wf h
  | rx buf =>
    cases h
    exact decodeRx_wf k buf
  | fn f data => exact decodeFn_wf h
  | tx frame => exact decodeTx_wf h

/-- Settles O41, word by word. -/
theorem specWordsDecode : Obligations.SpecWordsDecode := by
  unfold Obligations.SpecWordsDecode
  decide

end Sys2Proof
end

section
/-! PROOFS. What holds of every step: the invariant of R36 and its consequence that no step faults, and the events a step
appends (R111, R61). Each is read off the inversion lemma `exec_writes`. -/

namespace Sys2Proof

theorem Config.seqInit_ne_zero {c : Config} (h : c.wf = true) : c.seqInit ≠ 0 := by
  simp only [Config.wf, Bool.and_eq_true, bne_iff_ne] at h
  obtain ⟨⟨⟨_, hseq⟩, _⟩, _⟩ := h
  exact hseq

theorem Config.distinct_of_wf {c : Config} (h : c.wf = true) : c.k.distinct = true := by
  simp only [Config.wf, Bool.and_eq_true] at h
  obtain ⟨⟨⟨hk, _⟩, _⟩, _⟩ := h
  exact hk

/-- R61, R99: the frame of a packet ENCODE accepts is one DECODE accepts, of 5 to 260 bytes. -/
theorem Codec.frame_decodes (k : Constants) {p : Packet} (h : p.encodable = true) :
    (Codec.decode k (Codec.frame k p)).isSome = true ∧ 5 ≤ (Codec.frame k p).length ∧
      (Codec.frame k p).length ≤ 260 := by
  have hmax := p.length.isLt
  rw [Codec.decode_of_startsWithFrame (Codec.frame_startsWithFrame k h), Codec.frame_length k h]
  exact ⟨rfl, by omega, by omega⟩

end Sys2Proof

namespace Sys2Proof.Machine

/-! Packets of the queue (R36 (5)) -/

theorem queueable_hostPacket (c : Byte) {n : Byte} {payload : Bytes} (hn : n ≠ 0) (hpos : 1 ≤ payload.length)
    (hmax : payload.length ≤ 254) : Queueable (hostPacket c n payload) :=
  ⟨hostPacket_wf c n hmax, by rw [hostPacket_length_toNat c n hmax]; omega, hn⟩

theorem queueable_confirmation (k : Constants) {n : Byte} (row col : Byte) (hn : n ≠ 0) :
    Queueable (confirmation k n row col) :=
  ⟨confirmation_wf k n row col, by simp [confirmation], hn⟩

theorem queueFits_zero (c : Config) : queueFits c 0 = true := by
  unfold queueFits
  split <;> simp

/-! The invariant -/

theorem State.initial_inv {c : Config} (h : c.wf = true) : (State.initial c).Inv where
  cfgWf := h
  seqPos := Config.seqInit_ne_zero h
  inFlight := fun hst => absurd rfl hst
  fits := queueFits_zero c
  queueable := by simp

theorem Writes.inv {i : Instr} {s t : State} (hw : Writes i s t) (h : s.Inv) : t.Inv := by
  obtain ⟨hcfg, hseq, hflight, hfits, hqueue⟩ := h
  cases hw with
  | emits es _ => exact ⟨hcfg, hseq, hflight, hfits, hqueue⟩
  | refuses reason => exact ⟨hcfg, hseq, hflight, hfits, hqueue⟩
  | returns value => exact ⟨hcfg, hseq, hflight, hfits, hqueue⟩
  | sends p c rest _ _ hq _ => exact ⟨hcfg, hseq, fun _ => by simp [hq], hfits, hqueue⟩
  | acks p _ hst => exact ⟨hcfg, hseq, fun _ => hflight (by simp [hst]), hfits, hqueue⟩
  | completes es _ c rest _ _ hq =>
    exact ⟨hcfg, seqAdvance_ne_zero _, fun hst => absurd rfl hst, queueFits_mono hfits (by simp),
      fun p hp => hqueue p (List.mem_of_mem_tail hp)⟩
  | chains es _ p c rest row col _ _ hq =>
    obtain ⟨_, _, hc⟩ := hqueue c (by simp [hq])
    refine ⟨hcfg, hseq, fun hst => absurd rfl hst, ?_, fun p hp => ?_⟩
    · simpa [hq] using hfits
    · obtain hp | rfl : p ∈ s.q.tail ∨ p = confirmation s.cfg.k c.packNo row col := by simpa using hp
      · exact hqueue p (List.mem_of_mem_tail hp)
      · exact queueable_confirmation _ row col hc
  | enqueues c payload _ hpos hmax hfull =>
    refine ⟨hcfg, hseq, fun _ => by simp, ?_, fun p hp => ?_⟩
    · simpa using queueFits_succ hfits hfull
    · obtain hp | rfl : p ∈ s.q ∨ p = hostPacket c s.seq payload := by simpa using hp
      · exact hqueue p hp
      · exact queueable_hostPacket c hseq hpos hmax
  | disconnects _ _ => exact ⟨hcfg, hseq, fun hst => absurd rfl hst, queueFits_zero _, by simp⟩
  | restarts _ => exact ⟨hcfg, Config.seqInit_ne_zero hcfg, fun hst => absurd rfl hst, queueFits_zero _, by simp⟩

/-- A step that answers a next state changed nothing, or took a request and made one of the writes of `exec`. -/
theorem step_writes {s t : State} (h : step s = .next t) :
    t = s ∨ ∃ i rest, Writes i { s with pending := rest } t := by
  obtain ⟨_, he⟩ | ⟨_, _, _, _, _, he⟩ | ⟨_, rest, i, _, _, he⟩ := step_cases s <;> rw [he] at h
  · exact .inl (Host.Outcome.next.inj h).symm
  · cases h
  · exact .inr ⟨i, rest, exec_writes h⟩

/-! No fault (log entry 10) -/

theorem execStatus_next (p : Packet) {s : State} (h : s.st ≠ .idle → s.q ≠ []) :
    ∃ t, execStatus p s = .next t := by
  obtain ⟨_, he⟩ | ⟨hst, hq, _⟩ | ⟨_, _, _, _, _, he⟩ | ⟨_, _, _, _, _, _, _, he⟩ | ⟨_, _, _, _, _, _, _, he⟩ :=
    execStatus_cases p s
  · exact ⟨_, he⟩
  · exact absurd hq (h hst)
  · exact ⟨_, he⟩
  · exact ⟨_, he⟩
  · exact ⟨_, he⟩

theorem execReport_next (p : Packet) {s : State} (h : s.st ≠ .idle → s.q ≠ []) :
    ∃ t, execReport p s = .next t := by
  obtain ⟨_, he⟩ | ⟨_, _, he⟩ | ⟨_, _, _, _, he⟩ | ⟨_, hst, hq, _⟩ | ⟨_, _, _, _, _, _, _, he⟩ := execReport_cases p s
  · exact ⟨_, he⟩
  · exact ⟨_, he⟩
  · exact ⟨_, he⟩
  · exact absurd hq (h hst)
  · exact ⟨_, he⟩

theorem execPoll_next (p : Packet) (s : State) : ∃ t, execPoll p s = .next t := by
  obtain ⟨_, _, _, _, he⟩ | ⟨_, he⟩ := execPoll_cases p s <;> exact ⟨_, he⟩

theorem execAck_next (p : Packet) (s : State) : ∃ t, execAck p s = .next t := by
  obtain ⟨_, he⟩ | ⟨_, he⟩ := execAck_cases p s <;> exact ⟨_, he⟩

theorem execRxInvalid_next (buf : Bytes) (s : State) : ∃ t, execRxInvalid buf s = .next t := by
  obtain ⟨_, he⟩ | ⟨_, he⟩ := execRxInvalid_cases buf s <;> exact ⟨_, he⟩

theorem execRxFrame_next (buf : Bytes) {s : State} (h : s.st ≠ .idle → s.q ≠ []) :
    ∃ t, execRxFrame buf s = .next t := by
  obtain ⟨_, he⟩ | ⟨_, he⟩ := execRxFrame_cases buf s
  · exact ⟨_, he⟩
  · rw [he]
    obtain hr | ⟨p, hr | hr | hr | hr | hr⟩ := decodeRx_cases s.cfg.k buf <;> rw [hr]
    · exact execRxInvalid_next buf s
    · exact execPoll_next p s
    · exact execAck_next p s
    · exact execStatus_next p h
    · exact execReport_next p h
    · exact ⟨_, rfl⟩

theorem execHostEnq_next (c : Byte) (payload : Bytes) (s : State) : ∃ t, execHostEnq c payload s = .next t := by
  obtain ⟨_, he⟩ | ⟨_, he⟩ | ⟨_, _, _, he⟩ | ⟨_, _, _, he⟩ := execHostEnq_cases c payload s <;> exact ⟨_, he⟩

theorem execCodecEncode_next (p : Packet) (s : State) : ∃ t, execCodecEncode p s = .next t := by
  unfold execCodecEncode
  split <;> exact ⟨_, rfl⟩

/-- Every instruction answers a next state where a command in flight has its packet in the queue (R29). -/
theorem exec_next (i : Instr) {s : State} (h : s.st ≠ .idle → s.q ≠ []) : ∃ t, exec i s = .next t := by
  cases i with
  | poll p => exact execPoll_next p s
  | ack p => exact execAck_next p s
  | status p => exact execStatus_next p h
  | report p => exact execReport_next p h
  | other p => exact ⟨_, rfl⟩
  | rxInvalid buf => exact execRxInvalid_next buf s
  | rxFrame buf => exact execRxFrame_next buf h
  | hostEnq c payload => exact execHostEnq_next c payload s
  | disconnect => exact ⟨_, rfl⟩
  | reset => exact ⟨_, rfl⟩
  | codecChecksum bs => exact ⟨_, rfl⟩
  | codecEncode p => exact execCodecEncode_next p s
  | codecDecode buf => exact ⟨_, rfl⟩
  | txAck => exact ⟨_, rfl⟩
  | txCommand c n payload => exact ⟨_, rfl⟩
  | txConfirm n row col => exact ⟨_, rfl⟩

/-! Frame of a write: configuration, pending requests, events -/

section FrameOfWrites

variable {i : Instr} {s t : State}

theorem Writes.cfg (hw : Writes i s t) : t.cfg = s.cfg := by
  cases hw <;> rfl

theorem Writes.pending (hw : Writes i s t) : t.pending = s.pending := by
  cases hw <;> rfl

theorem emits_nil (k : Constants) : Emits k [] := emits_quiet k [] (by simp) rfl

/-- Events are only appended, and those of one instruction stand in the order of R111. -/
theorem Writes.events (hw : Writes i s t) : ∃ es, t.events = s.events ++ es ∧ Emits s.cfg.k es := by
  cases hw with
  | emits es he => exact ⟨es, rfl, he⟩
  | sends p c rest _ _ _ hc =>
    refine ⟨_, rfl, by simp [Event.rank], fun f hf => ⟨c, hc, ?_⟩⟩
    simpa using hf
  | acks p _ _ => exact ⟨_, rfl, emits_quiet _ [.pktRx p] (by simp) rfl⟩
  | completes es he _ _ _ _ _ => exact ⟨es, rfl, he⟩
  | chains es he _ _ _ _ _ _ _ _ => exact ⟨es, rfl, he⟩
  | _ => exact ⟨[], by simp, emits_nil _⟩

/-- A step appends events in the order of R111, each of its frames that of a packet ENCODE accepts. -/
theorem step_emits (h : step s = .next t) :
    t.cfg = s.cfg ∧ ∃ es, t.events = s.events ++ es ∧ Emits s.cfg.k es := by
  obtain rfl | ⟨i, rest, hw⟩ := step_writes h
  · exact ⟨rfl, [], by simp, emits_nil _⟩
  · exact ⟨hw.cfg, hw.events⟩

end FrameOfWrites

/-- Settles O48: every write of `exec` keeps the invariant, which does not speak of `pending`. -/
theorem stepKeepsTheInvariant : Obligations.StepKeepsTheInvariant := by
  unfold Obligations.StepKeepsTheInvariant
  intro s t hinv h
  obtain rfl | ⟨i, rest, hw⟩ := step_writes h
  · exact hinv
  · obtain ⟨hcfg, hseq, hflight, hfits, hqueue⟩ := hinv
    exact hw.inv ⟨hcfg, hseq, hflight, hfits, hqueue⟩

/-- Settles O50: the frames a step appends are those of packets ENCODE accepts. -/
theorem stepSendsOnlyDecodableFrames : Obligations.StepSendsOnlyDecodableFrames := by
  unfold Obligations.StepSendsOnlyDecodableFrames
  intro s t hsent h f hf
  obtain ⟨hcfg, es, hes, _, hframes⟩ := step_emits h
  rw [hcfg]
  rw [hes, txFrames_append, List.mem_append] at hf
  obtain hf | hf := hf
  · exact hsent f hf
  · obtain ⟨p, hp, rfl⟩ := hframes f hf
    exact Codec.frame_decodes _ hp

/-- Settles O49: the only fault needs a command in flight and an empty queue. -/
theorem noStepFaultsUnderTheInvariant : Obligations.NoStepFaultsUnderTheInvariant := by
  unfold Obligations.NoStepFaultsUnderTheInvariant
  have hexec : ∀ (s : State) (rest : List Request) (i : Instr), s.Inv →
      ∃ t, exec i { s with pending := rest } = .next t :=
    fun s rest i hinv => exec_next i hinv.inFlight
  constructor
  · intro s f hinv
    obtain ⟨_, he⟩ | ⟨_, _, _, _, _, he⟩ | ⟨_, rest, i, _, _, he⟩ := step_cases s
    · simp [he]
    · simp [he]
    · obtain ⟨t, ht⟩ := hexec s rest i hinv
      simp [he, ht]
  · intro s r rest i hinv hp hd
    obtain ⟨hp', _⟩ | ⟨_, _, _, hp', hd', _⟩ | ⟨_, rest', j, _, _, he⟩ := step_cases s
    · simp [hp] at hp'
    · cases hp.symm.trans hp'
      cases hd.symm.trans hd'
    · rw [he]
      exact hexec s rest' j hinv

/-- Settles O51. -/
theorem stepEventsComeInOrder : Obligations.StepEventsComeInOrder := by
  unfold Obligations.StepEventsComeInOrder
  intro s t h
  obtain ⟨_, es, hes, horder, _⟩ := step_emits h
  exact ⟨es, hes, horder⟩

/-- Settles O58: no write of `exec` names these fields but to append events. -/
theorem configurationAndInputsAreNotWritten : Obligations.ConfigurationAndInputsAreNotWritten := by
  unfold Obligations.ConfigurationAndInputsAreNotWritten
  intro i s t h
  have hw := exec_writes h
  obtain ⟨es, hes, _⟩ := hw.events
  exact ⟨hw.cfg, hw.pending, es, hes.symm⟩

/-- Settles O47: the initial queue and stream of events are empty, and SEQ_INIT is not 0. -/
theorem initialStateHasTheInvariant : Obligations.InitialStateHasTheInvariant := by
  unfold Obligations.InitialStateHasTheInvariant
  exact ⟨fun c hc => ⟨State.initial_inv hc, by simp [State.SentFramesDecode]⟩, State.initial_inv (by decide), rfl⟩

/-! Who writes `st`, `seq`, `q` and the refusal mark -/

/-- Settles O53: only Complete, RESET and DISCONNECT under REINIT name `seq`. -/
theorem onlyCompletionResetAndReinitWriteSeq : Obligations.OnlyCompletionResetAndReinitWriteSeq := by
  unfold Obligations.OnlyCompletionResetAndReinitWriteSeq
  intro i s t h hne
  cases exec_writes h with
  | completes es _ c rest hi hst hq =>
    refine .inl ⟨rfl, hst, rfl, rfl, ?_⟩
    obtain ⟨p, hp⟩ | ⟨p, _, hp, _⟩ := hi
    · exact ⟨p, .inl hp⟩
    · exact ⟨p, .inr hp⟩
  | restarts hi =>
    obtain hi | ⟨hi, hk⟩ := hi
    · exact .inr (.inl ⟨hi, rfl⟩)
    · exact .inr (.inr ⟨hi, hk, rfl⟩)
  | _ => exact absurd rfl hne

/-- Settles O54, by the writes of `exec`. -/
theorem queueIsFirstInFirstOut : Obligations.QueueIsFirstInFirstOut := by
  unfold Obligations.QueueIsFirstInFirstOut
  intro i s t h
  cases exec_writes h with
  | enqueues c payload hi _ _ _ => exact .inr (.inl ⟨c, payload, hi, rfl⟩)
  | completes es _ c rest _ hst hq => exact .inr (.inr (.inl ⟨hst, rfl, c, by simp [hq]⟩))
  | chains es _ p c rest row col _ hst hq =>
    exact .inr (.inr (.inr (.inl ⟨hst, rfl, c, rest, row, col, hq, by simp [hq]⟩)))
  | disconnects hi _ => exact .inr (.inr (.inr (.inr ⟨.inl hi, rfl⟩)))
  | restarts hi => exact .inr (.inr (.inr (.inr ⟨hi.symm.imp_left And.left, rfl⟩)))
  | _ => exact .inl rfl

/-- R184 and R185 in one: how a waiting state is left. -/
theorem exec_leaves_waiting {i : Instr} {s t : State} (hst : s.st ≠ .idle) (h : exec i s = .next t) :
    t.st = s.st ∨
    (∃ p, resolve s.cfg.k i = .ack p ∧ s.st = .awaitAck ∧ t.st = .awaitData) ∨
    (∃ p, resolve s.cfg.k i = .status p ∧ t.st = .idle) ∨
    (∃ p r, resolve s.cfg.k i = .report p ∧ slotResult p.payload = some r ∧ r.status ≠ s.cfg.k.stOk ∧
      t.st = .idle) ∨
    ((i = .disconnect ∨ i = .reset) ∧ t.st = .idle) := by
  cases exec_writes h with
  | sends _ _ _ _ hidle _ _ => exact absurd hidle hst
  | acks p hi hack => exact .inr (.inl ⟨p, hi, hack, rfl⟩)
  | completes _ _ _ _ hi _ _ =>
    obtain ⟨p, hp⟩ | ⟨p, r, hp, hr, hfail⟩ := hi
    · exact .inr (.inr (.inl ⟨p, hp, rfl⟩))
    · exact .inr (.inr (.inr (.inl ⟨p, r, hp, hr, hfail, rfl⟩)))
  | chains _ _ p _ _ _ _ hi _ _ => exact .inr (.inr (.inl ⟨p, hi, rfl⟩))
  | disconnects hi _ => exact .inr (.inr (.inr (.inr ⟨.inl hi, rfl⟩)))
  | restarts hi => exact .inr (.inr (.inr (.inr ⟨hi.symm.imp_left And.left, rfl⟩)))
  | _ => exact .inl rfl

/-- Settles O55. -/
theorem awaitAckIsLeftOnlyByAnswersOrReset : Obligations.AwaitAckIsLeftOnlyByAnswersOrReset := by
  unfold Obligations.AwaitAckIsLeftOnlyByAnswersOrReset
  intro i s t hst h
  obtain hkeep | ⟨p, hp, _, hdata⟩ | hrest := exec_leaves_waiting (by simp [hst]) h
  · exact .inl (hkeep.trans hst)
  · exact .inr (.inl ⟨p, hp, hdata⟩)
  · exact .inr (.inr hrest)

/-- Settles O56: an ACK is taken in AWAIT_ACK only. -/
theorem awaitDataIsLeftOnlyByResultsOrReset : Obligations.AwaitDataIsLeftOnlyByResultsOrReset := by
  unfold Obligations.AwaitDataIsLeftOnlyByResultsOrReset
  intro i s t hst h
  obtain hkeep | ⟨_, _, hack, _⟩ | hrest := exec_leaves_waiting (by simp [hst]) h
  · exact .inl (hkeep.trans hst)
  · simp [hst] at hack
  · exact .inr hrest

/-- Settles O57: the mark is named by the refusing write alone. -/
theorem refusalMarkIsSticky : Obligations.RefusalMarkIsSticky := by
  unfold Obligations.RefusalMarkIsSticky
  intro i s t h
  have hmark : (t.refused = s.refused ∧ t.lastRefusal = s.lastRefusal) ∨
      ∃ reason, t = { s with refused := true, lastRefusal := some reason } := by
    cases exec_writes h with
    | refuses reason => exact .inr ⟨reason, rfl⟩
    | _ => exact .inl ⟨rfl, rfl⟩
  refine ⟨fun hs => ?_, hmark⟩
  obtain ⟨hkeep, _⟩ | ⟨_, rfl⟩ := hmark
  · exact hkeep.trans hs
  · rfl

end Sys2Proof.Machine
end

section
/-! PROOFS. The receive step and its rows, branch by branch (R110 to R133): one equation per branch, and the statements
that read them together. -/

namespace Sys2Proof.Machine

/-! The receive port (R110) -/

theorem rxOversize_iff {c : Config} {buf : Bytes} :
    rxOversize c buf = true ↔ ∃ m, c.rxMax = some m ∧ m < buf.length := by
  unfold rxOversize
  cases c.rxMax <;> simp

theorem exec_rxFrame_of_oversize {buf : Bytes} {s : State} (h : rxOversize s.cfg buf = true) :
    exec (.rxFrame buf) s = .next (s.refuse .rxOversize) := by
  obtain ⟨_, he⟩ | ⟨hsize, _⟩ := execRxFrame_cases buf s
  · exact he
  · simp [h] at hsize

theorem exec_rxInvalid_of_oversize {buf : Bytes} {s : State} (h : rxOversize s.cfg buf = true) :
    exec (.rxInvalid buf) s = .next (s.refuse .rxOversize) := if_pos h

theorem exec_rxInvalid_of_accepted {buf : Bytes} {s : State} (h : rxOversize s.cfg buf = false) :
    exec (.rxInvalid buf) s = .next (s.emit [.log .frameInvalid]) := if_neg (by simp [h])

theorem exec_rxFrame_of_decode_eq_none {buf : Bytes} {s : State} (hsize : rxOversize s.cfg buf = false)
    (hd : Codec.decode s.cfg.k buf = none) : exec (.rxFrame buf) s = exec (.rxInvalid buf) s := by
  obtain ⟨hbig, _⟩ | ⟨_, he⟩ := execRxFrame_cases buf s
  · simp [hsize] at hbig
  · exact he.trans (by rw [decodeRx_of_decode_eq_none hd])

/-! POLL (R116) and ACK (R118) -/

theorem exec_poll_of_head {s : State} {c : Packet} {rest : List Packet} (p : Packet) (hst : s.st = .idle)
    (hq : s.q = c :: rest) :
    exec (.poll p) s = .next (s.transmit [.pktRx p, .pollRx p] c State.setAckWait) := by
  simp [exec, execPoll, hst, hq]

theorem transmit_of_encodable {s : State} {c : Packet} (before : List Event) (after : State → State)
    (h : c.encodable = true) :
    s.transmit before c after = after (s.emit (before ++ [.tx (Codec.frame s.cfg.k c)])) := by
  rw [State.transmit, Codec.encode_of_encodable _ h]

theorem transmit_of_not_encodable {s : State} {c : Packet} (before : List Event) (after : State → State)
    (h : c.encodable = false) : s.transmit before c after = s.refuse .encMalformed := by
  rw [State.transmit, Codec.encode_of_not_encodable _ h]

theorem exec_poll_sends {s : State} {c : Packet} {rest : List Packet} (p : Packet) (hst : s.st = .idle)
    (hq : s.q = c :: rest) (hc : c.encodable = true) :
    exec (.poll p) s = .next (s.emit [.pktRx p, .pollRx p, .tx (Codec.frame s.cfg.k c)]).setAckWait := by
  rw [exec_poll_of_head p hst hq, transmit_of_encodable _ _ hc]
  rfl

theorem exec_poll_heartbeat {s : State} (p : Packet) (h : s.st ≠ .idle ∨ s.q = []) :
    exec (.poll p) s = .next (s.emit [.pktRx p, .pollRx p, .tx (bareAck s.cfg.k)]) := by
  obtain ⟨c, rest, hst, hq, _⟩ | ⟨_, he⟩ := execPoll_cases p s
  · simp [hst, hq] at h
  · exact he

theorem exec_ack_awaited {s : State} (p : Packet) (h : s.st = .awaitAck) :
    exec (.ack p) s = .next (s.clearAckWait.emit [.pktRx p]) := if_pos h

theorem exec_ack_unexpected {s : State} (p : Packet) (h : s.st ≠ .awaitAck) :
    exec (.ack p) s = .next (s.emit [.pktRx p, .log .unexpectedAck]) := if_neg h

/-! STATUS (R120) and REPORT (R126) -/

section ResultRows

variable {s : State} {p c : Packet} {rest : List Packet} {r : SlotResult}

theorem exec_status_idle (p : Packet) (hst : s.st = .idle) :
    exec (.status p) s =
      .next (s.emit [.pktRx p, .tx (bareAck s.cfg.k), .log .resultWithoutCommand]) := if_pos hst

theorem exec_status_no_head (p : Packet) (hst : s.st ≠ .idle) (hq : s.q = []) :
    exec (.status p) s = .fault .noInFlight := by
  simp [exec, execStatus, hst, hq]

theorem exec_status_short (hst : s.st ≠ .idle) (hq : s.q = c :: rest) (hr : slotResult p.payload = none) :
    exec (.status p) s =
      .next (s.complete.emit [.pktRx p, .tx (bareAck s.cfg.k), .log .statusShortPayload]) := by
  simp [exec, execStatus, hst, hq, hr]

theorem exec_status_ok (hst : s.st ≠ .idle) (hq : s.q = c :: rest) (hr : slotResult p.payload = some r)
    (hok : r.status = s.cfg.k.stOk) :
    exec (.status p) s = .next ((s.chainConfirmation c r.row r.col).emit
      [.pktRx p, .tx (bareAck s.cfg.k), .result .check r.status r.row r.col c.packNo]) := by
  simp [exec, execStatus, hst, hq, hr, hok]

theorem exec_status_failure (hst : s.st ≠ .idle) (hq : s.q = c :: rest) (hr : slotResult p.payload = some r)
    (hfail : r.status ≠ s.cfg.k.stOk) :
    exec (.status p) s = .next (s.complete.emit
      [.pktRx p, .tx (bareAck s.cfg.k), .result .check r.status r.row r.col c.packNo]) := by
  simp [exec, execStatus, hst, hq, hr, hfail]

theorem exec_report_idle (p : Packet) (hst : s.st = .idle) :
    exec (.report p) s =
      .next (s.emit [.pktRx p, .tx (bareAck s.cfg.k), .log .resultWithoutCommand]) := if_pos hst

theorem exec_report_short (hst : s.st ≠ .idle) (hr : slotResult p.payload = none) :
    exec (.report p) s = .next (s.emit [.pktRx p, .tx (bareAck s.cfg.k), .log .reportShortPayload]) := by
  simp [exec, execReport, hst, hr]

theorem exec_report_progress (hst : s.st ≠ .idle) (hr : slotResult p.payload = some r)
    (hok : r.status = s.cfg.k.stOk) : exec (.report p) s = .next (s.emit [.pktRx p, .tx (bareAck s.cfg.k)]) := by
  simp [exec, execReport, hst, hr, hok]

theorem exec_report_no_head (hst : s.st ≠ .idle) (hq : s.q = []) (hr : slotResult p.payload = some r)
    (hfail : r.status ≠ s.cfg.k.stOk) : exec (.report p) s = .fault .noInFlight := by
  simp [exec, execReport, hst, hq, hr, hfail]

theorem exec_report_terminal (hst : s.st ≠ .idle) (hq : s.q = c :: rest) (hr : slotResult p.payload = some r)
    (hfail : r.status ≠ s.cfg.k.stOk) :
    exec (.report p) s = .next (s.complete.emit
      [.pktRx p, .tx (bareAck s.cfg.k), .result .release r.status r.row r.col c.packNo]) := by
  simp [exec, execReport, hst, hq, hr, hfail]

/-- R70: the operands of a payload of at least three bytes. -/
theorem slotResult_of_cons {payload more : Bytes} {status row col : Byte}
    (h : payload = status :: row :: col :: more) : slotResult payload = some ⟨status, row, col⟩ :=
  slotResult_eq_some.2 ⟨more, h⟩

/-- R112 on a queue with a head. -/
theorem complete_of_head (hq : s.q = c :: rest) :
    s.complete = { s with st := .idle, q := rest, seq := seqAdvance s.seq } := by
  simp [State.complete, State.clearWaitFlags, hq]

/-- R124 on a queue with a head. -/
theorem chainConfirmation_of_head (row col : Byte) (hq : s.q = c :: rest) :
    s.chainConfirmation c row col =
      { s with st := .idle, q := rest ++ [confirmation s.cfg.k c.packNo row col] } := by
  simp [State.chainConfirmation, State.clearWaitFlags, hq]

end ResultRows

/-- R113, with the one value that wraps named. -/
theorem seqAdvance_eq_ite (v : Byte) : seqAdvance v = if v = 255 then 1 else v + 1 := by
  have hwrap : v + 1 = 0 ↔ v = 255 := by bv_omega
  by_cases h : v = 255
  · rw [if_pos h, seqAdvance_of_succ_eq_zero (hwrap.2 h)]
  · rw [if_neg h, seqAdvance_of_succ_ne_zero (mt hwrap.1 h)]

/-- Settles O14: the dispatch of an accepted buffer is the classification of its packet. -/
theorem rxFrameRunsTheRowOfTheCommand : Obligations.RxFrameRunsTheRowOfTheCommand := by
  unfold Obligations.RxFrameRunsTheRowOfTheCommand
  refine ⟨fun s buf p hsize hd => ?_, rfl, rfl, rfl, rfl⟩
  rw [exec_rxFrame_of_decode_eq_some hsize hd]
  refine ⟨fun hc => ?_, fun hc hk => ?_, fun hc hk => ?_, fun hc hk => ?_, fun hc => ?_⟩
  · rw [classify_of_poll hc]
  · rw [classify_of_ack (Constants.Distinct.of_distinct hk) hc]
  · rw [classify_of_status (Constants.Distinct.of_distinct hk) hc]
  · rw [classify_of_report (Constants.Distinct.of_distinct hk) hc]
  · rw [classify_of_isOther hc]

/-- Settles O15. -/
theorem framingErrorIsOnlyLogged : Obligations.FramingErrorIsOnlyLogged := by
  unfold Obligations.FramingErrorIsOnlyLogged
  intro s buf hsize hd
  have hinvalid := exec_rxInvalid_of_accepted hsize
  exact ⟨(exec_rxFrame_of_decode_eq_none hsize hd).trans hinvalid, hinvalid⟩

/-- Settles O16. -/
theorem oversizeBufferIsRefused : Obligations.OversizeBufferIsRefused := by
  unfold Obligations.OversizeBufferIsRefused
  intro s buf m hm hlen
  have hbig : rxOversize s.cfg buf = true := rxOversize_iff.2 ⟨m, hm, hlen⟩
  exact ⟨exec_rxFrame_of_oversize hbig, exec_rxInvalid_of_oversize hbig⟩

/-- Settles O17. -/
theorem pollSendsTheQueueHead : Obligations.PollSendsTheQueueHead := by
  unfold Obligations.PollSendsTheQueueHead
  exact fun s p c rest hst hq hc => exec_poll_sends p hst hq hc

/-- Settles O18. -/
theorem pollOtherwiseIsAHeartbeat : Obligations.PollOtherwiseIsAHeartbeat := by
  unfold Obligations.PollOtherwiseIsAHeartbeat
  exact fun s p h => exec_poll_heartbeat p h

/-- Settles O19. -/
theorem pollOfAMalformedHeadIsRefused : Obligations.PollOfAMalformedHeadIsRefused := by
  unfold Obligations.PollOfAMalformedHeadIsRefused
  intro s p c rest hst hq hc
  rw [exec_poll_of_head p hst hq, transmit_of_not_encodable _ _ hc]
  rfl

/-- Settles O20. -/
theorem ackEventsAndState : Obligations.AckEventsAndState := by
  unfold Obligations.AckEventsAndState
  exact fun s p => ⟨exec_ack_awaited p, exec_ack_unexpected p⟩

/-- Settles O22. -/
theorem statusWithoutCommandChangesNothing : Obligations.StatusWithoutCommandChangesNothing := by
  unfold Obligations.StatusWithoutCommandChangesNothing
  exact fun s p hst => exec_status_idle p hst

/-- Settles O23. -/
theorem shortStatusCompletesTheCommand : Obligations.ShortStatusCompletesTheCommand := by
  unfold Obligations.ShortStatusCompletesTheCommand
  intro s p c rest hst hq hshort
  rw [exec_status_short hst hq (slotResult_eq_none.2 hshort), complete_of_head hq]
  rfl

/-- Settles O24. -/
theorem statusOkChainsAConfirmation : Obligations.StatusOkChainsAConfirmation := by
  unfold Obligations.StatusOkChainsAConfirmation
  intro s p c rest row col more hst hq hp
  constructor
  · rw [exec_status_ok hst hq (slotResult_of_cons hp) rfl, chainConfirmation_of_head row col hq]
    rfl
  · simp [hq]

/-- A STATUS that reports a failure completes the command (R123). -/
theorem exec_status_failure_of_head {s : State} {p c : Packet} {rest : List Packet} {status row col : Byte}
    {more : Bytes} (hst : s.st ≠ .idle) (hq : s.q = c :: rest) (hp : p.payload = status :: row :: col :: more)
    (hfail : status ≠ s.cfg.k.stOk) :
    exec (.status p) s = .next { s with
      st := .idle, q := rest, seq := seqAdvance s.seq
      events := s.events ++ [.pktRx p, .tx (bareAck s.cfg.k), .result .check status row col c.packNo] } := by
  rw [exec_status_failure hst hq (slotResult_of_cons hp) hfail, complete_of_head hq]
  rfl

/-- A terminal REPORT completes the command (R130). -/
theorem exec_report_terminal_of_head {s : State} {p c : Packet} {rest : List Packet} {status row col : Byte}
    {more : Bytes} (hst : s.st ≠ .idle) (hq : s.q = c :: rest) (hp : p.payload = status :: row :: col :: more)
    (hfail : status ≠ s.cfg.k.stOk) :
    exec (.report p) s = .next { s with
      st := .idle, q := rest, seq := seqAdvance s.seq
      events := s.events ++ [.pktRx p, .tx (bareAck s.cfg.k), .result .release status row col c.packNo] } := by
  rw [exec_report_terminal hst hq (slotResult_of_cons hp) hfail, complete_of_head hq]
  rfl

/-- Settles O25. -/
theorem statusFailureReportsAndCompletes : Obligations.StatusFailureReportsAndCompletes := by
  unfold Obligations.StatusFailureReportsAndCompletes
  exact fun s p c rest status row col more hst hq hp hfail => exec_status_failure_of_head hst hq hp hfail

/-- Settles O26. -/
theorem statusFailureIsTerminal : Obligations.StatusFailureIsTerminal := by
  unfold Obligations.StatusFailureIsTerminal
  refine ⟨rfl, fun s p c rest status row col more hst hq hp hfail => ?_⟩
  exact ⟨_, exec_status_failure_of_head hst hq hp hfail, rfl, rfl, rfl, rfl, seqAdvance_eq_ite s.seq, rfl, rfl⟩

/-- Settles O27. -/
theorem reportThatKeepsWaitingChangesNothing : Obligations.ReportThatKeepsWaitingChangesNothing := by
  unfold Obligations.ReportThatKeepsWaitingChangesNothing
  exact fun s p => ⟨exec_report_idle p, fun hst hshort => exec_report_short hst (slotResult_eq_none.2 hshort),
    fun row col more hst hp => exec_report_progress hst (slotResult_of_cons hp) rfl⟩

/-- Settles O28. -/
theorem terminalReportReportsAndCompletes : Obligations.TerminalReportReportsAndCompletes := by
  unfold Obligations.TerminalReportReportsAndCompletes
  exact fun s p c rest status row col more hst hq hp hfail => exec_report_terminal_of_head hst hq hp hfail

/-- Settles O29, by the two branches on the status. -/
theorem reportIsProgressOrTerminal : Obligations.ReportIsProgressOrTerminal := by
  unfold Obligations.ReportIsProgressOrTerminal
  refine ⟨rfl, fun s p status row col more hst hp => ⟨fun hok => ?_, fun c rest hfail hq => ?_⟩⟩
  · exact ⟨_, _, exec_report_progress hst (slotResult_of_cons hp) hok, rfl, rfl, by simp [Event.rank],
      rfl, rfl, rfl, rfl⟩
  · exact ⟨_, _, exec_report_terminal_of_head hst hq hp hfail, rfl, by simp, rfl, rfl, rfl, rfl,
      seqAdvance_eq_ite s.seq, rfl⟩

/-- Settles O30. -/
theorem resultWithoutQueueHeadStops : Obligations.ResultWithoutQueueHeadStops := by
  unfold Obligations.ResultWithoutQueueHeadStops
  exact fun s p hst hq => ⟨exec_status_no_head p hst hq,
    fun status row col more hp hfail => exec_report_no_head hst hq (slotResult_of_cons hp) hfail⟩

/-- Settles O31. -/
theorem otherCommandEventsAndState : Obligations.OtherCommandEventsAndState := by
  unfold Obligations.OtherCommandEventsAndState
  exact fun s p => exec_other p s

/-! What a received frame transmits (R76, R167) -/

theorem txFrames_of_execPoll {p : Packet} {s t : State} (h : execPoll p s = .next t) :
    txFrames t.events = txFrames s.events ∨
    txFrames t.events = txFrames s.events ++ [bareAck s.cfg.k] ∨
    (∃ c rest, s.st = .idle ∧ s.q = c :: rest ∧ t.st = .awaitAck ∧
      ∃ f, Codec.encode s.cfg.k c = some f ∧ txFrames t.events = txFrames s.events ++ [f]) := by
  obtain ⟨c, rest, hst, hq, he⟩ | ⟨_, he⟩ := execPoll_cases p s <;> rw [he] at h <;> cases h
  · obtain ⟨hc, ht⟩ | ⟨_, ht⟩ := transmit_cases s [.pktRx p, .pollRx p] c State.setAckWait <;> rw [ht]
    · exact .inr (.inr ⟨c, rest, hst, hq, rfl, _, Codec.encode_of_encodable _ hc, by simp⟩)
    · exact .inl rfl
  · exact .inr (.inl (by simp))

theorem txFrames_of_execAck {p : Packet} {s t : State} (h : execAck p s = .next t) :
    txFrames t.events = txFrames s.events := by
  obtain ⟨_, he⟩ | ⟨_, he⟩ := execAck_cases p s <;> rw [he] at h <;> cases h <;> simp

theorem txFrames_of_execRxInvalid {buf : Bytes} {s t : State} (h : execRxInvalid buf s = .next t) :
    txFrames t.events = txFrames s.events := by
  obtain ⟨_, he⟩ | ⟨_, he⟩ := execRxInvalid_cases buf s <;> rw [he] at h <;> cases h <;> simp

theorem txFrames_of_execHostEnq {c : Byte} {payload : Bytes} {s t : State}
    (h : execHostEnq c payload s = .next t) : txFrames t.events = txFrames s.events := by
  obtain ⟨_, he⟩ | ⟨_, he⟩ | ⟨_, _, _, he⟩ | ⟨_, _, _, he⟩ := execHostEnq_cases c payload s <;> rw [he] at h <;>
    cases h <;> simp

theorem txFrames_of_execStatus {p : Packet} {s t : State} (h : execStatus p s = .next t) :
    txFrames t.events = txFrames s.events ++ [bareAck s.cfg.k] := by
  obtain ⟨_, he⟩ | ⟨_, _, he⟩ | ⟨_, _, _, _, _, he⟩ | ⟨_, _, _, _, _, _, _, he⟩ | ⟨_, _, _, _, _, _, _, he⟩ :=
    execStatus_cases p s <;> rw [he] at h <;> cases h <;> simp

theorem txFrames_of_execReport {p : Packet} {s t : State} (h : execReport p s = .next t) :
    txFrames t.events = txFrames s.events ++ [bareAck s.cfg.k] := by
  obtain ⟨_, he⟩ | ⟨_, _, he⟩ | ⟨_, _, _, _, he⟩ | ⟨_, _, _, _, _, he⟩ | ⟨_, _, _, _, _, _, _, he⟩ :=
    execReport_cases p s <;> rw [he] at h <;> cases h <;> simp

theorem txFrames_of_execOther {p : Packet} {s t : State} (h : execOther p s = .next t) :
    txFrames t.events = txFrames s.events ++ [bareAck s.cfg.k] := by
  cases h
  simp

/-- Settles O52: a received buffer is refused or runs one row, and POLL alone sends a frame other than the bare ACK. -/
theorem onlyReceivedFramesTransmit : Obligations.OnlyReceivedFramesTransmit := by
  unfold Obligations.OnlyReceivedFramesTransmit
  intro s t
  constructor
  · rintro i (rfl | rfl | ⟨c, payload, rfl⟩) h
    · cases h
      rfl
    · cases h
      rfl
    · exact txFrames_of_execHostEnq h
  · intro buf h
    obtain ⟨_, he⟩ | ⟨_, he⟩ := execRxFrame_cases buf s
    · cases he.symm.trans h
      exact .inl rfl
    · replace h := he.symm.trans h
      obtain hr | ⟨p, hr | hr | hr | hr | hr⟩ := decodeRx_cases s.cfg.k buf <;> rw [hr] at h
      · exact .inl (txFrames_of_execRxInvalid h)
      · exact txFrames_of_execPoll h
      · exact .inl (txFrames_of_execAck h)
      · exact .inr (.inl (txFrames_of_execStatus h))
      · exact .inr (.inl (txFrames_of_execReport h))
      · exact .inr (.inl (txFrames_of_execOther h))

end Sys2Proof.Machine
end

section
/-! PROOFS. Configuration and reset, the rejections of HOST_ENQ, DISCONNECT and RESET, the emitted frames, the wait flags,
and what a step runs. -/

namespace Sys2Proof.Machine

theorem exec_disconnect (s : State) : exec .disconnect s = execDisconnect s := rfl

/-- RESET writes every field of the block but the refusal mark (R180). -/
theorem exec_reset (s : State) : exec .reset s = .next { s with st := .idle, q := [], seq := s.cfg.seqInit } := rfl

/-! HOST_ENQ rejects in the order of R140 -/

theorem exec_hostEnq_of_empty (c : Byte) (s : State) :
    exec (.hostEnq c []) s = .next (s.emit [.log .enqEmptyPayload]) := rfl

theorem exec_hostEnq_of_long (c : Byte) {payload : Bytes} (s : State) (hlong : 254 < payload.length) :
    exec (.hostEnq c payload) s = .next (s.emit [.log .enqPayloadTooLong]) := by
  rw [exec_hostEnq, execHostEnq, if_neg (by omega), if_pos hlong]

theorem exec_hostEnq_of_full (c : Byte) {payload : Bytes} {s : State} (hpos : 1 ≤ payload.length)
    (hmax : payload.length ≤ 254) (hfull : s.cfg.qdepth = some s.q.length) :
    exec (.hostEnq c payload) s = .next (s.emit [.log .enqQueueFull]) := by
  rw [exec_hostEnq, execHostEnq, if_neg (by omega), if_neg (Nat.not_lt.2 hmax), if_pos (queueFull_iff.2 hfull)]

/-! The emitted frames -/

theorem exec_txAck (s : State) : exec .txAck s = .next (s.emit [.tx (bareAck s.cfg.k)]) := rfl

theorem exec_txCommand (c n : Byte) (payload : Bytes) (s : State) :
    exec (.txCommand c n payload) s = .next (s.transmit [] (hostPacket c n payload) id) := rfl

theorem exec_txConfirm (n row col : Byte) (s : State) :
    exec (.txConfirm n row col) s = .next (s.transmit [] (confirmation s.cfg.k n row col) id) := rfl

/-! What a step runs -/

/-- R6: the next pending request, once it decodes. -/
theorem step_of_decode_eq_ok {s : State} {r : Request} {rest : List Request} {i : Instr} (hp : s.pending = r :: rest)
    (hd : decode s.cfg.k r = .ok i) : step s = exec i { s with pending := rest } := by
  simp [step, fetch, hp, hd]

theorem step_putNext {s : State} {r : Request} {i : Instr} (hd : decode s.cfg.k r = .ok i) :
    step (s.putNext r) = exec i s := step_of_decode_eq_ok (s := s.putNext r) rfl hd

/-- Settles O1, constant by constant. -/
theorem numericConstantsAreTheSpecs : Obligations.NumericConstantsAreTheSpecs := by
  unfold Obligations.NumericConstantsAreTheSpecs
  decide

/-- Settles O2. -/
theorem initialStateIsIdleAndEmpty : Obligations.InitialStateIsIdleAndEmpty := by
  unfold Obligations.InitialStateIsIdleAndEmpty
  exact ⟨fun c => ⟨rfl, rfl, rfl, rfl, rfl, rfl, rfl, rfl, rfl⟩, rfl, rfl⟩

/-- Settles O3. -/
theorem resetRestoresAllButRefused : Obligations.ResetRestoresAllButRefused := by
  unfold Obligations.ResetRestoresAllButRefused
  exact exec_reset

/-- Settles O34, check by check in the order of R140. -/
theorem hostEnqRejectionsOnlyLog : Obligations.HostEnqRejectionsOnlyLog := by
  unfold Obligations.HostEnqRejectionsOnlyLog
  intro s c payload
  refine ⟨?_, exec_hostEnq_of_long c s, exec_hostEnq_of_full c⟩
  rintro rfl
  exact exec_hostEnq_of_empty c s

/-- Settles O35, by SEQ_ON_DISCONNECT. -/
theorem disconnectDiscardsTheQueue : Obligations.DisconnectDiscardsTheQueue := by
  unfold Obligations.DisconnectDiscardsTheQueue
  intro s
  rw [exec_disconnect]
  obtain ⟨hk, he⟩ | ⟨hk, he⟩ := execDisconnect_cases s
  · exact ⟨fun _ => he, fun h => by simp [hk] at h⟩
  · exact ⟨fun h => by simp [hk] at h, fun _ => he⟩

/-- Settles O36, by SEQ_ON_DISCONNECT. -/
theorem disconnectDiffersFromResetOnlyInSeq : Obligations.DisconnectDiffersFromResetOnlyInSeq := by
  unfold Obligations.DisconnectDiffersFromResetOnlyInSeq
  intro s
  rw [exec_disconnect, exec_reset]
  obtain ⟨hk, he⟩ | ⟨_, he⟩ := execDisconnect_cases s
  · exact ⟨fun h => by simp [hk] at h, _, _, he, rfl, rfl⟩
  · exact ⟨fun _ => he, _, _, he, rfl, rfl⟩

/-- Settles O37: a row transmits its packet, which ENCODE accepts unless the payload is too long for the length byte. -/
theorem transmitRowsEmitOneFrame : Obligations.TransmitRowsEmitOneFrame := by
  unfold Obligations.TransmitRowsEmitOneFrame
  intro s
  refine ⟨exec_txAck s, fun c n payload hmax => ?_, fun c n payload hlong => ?_, fun n row col => ?_, by decide⟩
  · refine ⟨_, hostPacket_length_toNat c n hmax, ?_⟩
    rw [exec_txCommand, transmit_of_encodable _ _ (Packet.encodable_of_wf (hostPacket_wf c n hmax))]
    rfl
  · rw [exec_txCommand, transmit_of_not_encodable _ _ (hostPacket_not_encodable c n hlong)]
    rfl
  · rw [exec_txConfirm, transmit_of_encodable _ _ (Packet.encodable_of_wf (confirmation_wf _ n row col))]
    rfl

/-- Settles O40, by the definitions of the views. -/
theorem waitFlagsAreViewsOfTheEngineState : Obligations.WaitFlagsAreViewsOfTheEngineState := by
  unfold Obligations.WaitFlagsAreViewsOfTheEngineState
  refine ⟨fun s => ⟨s.ackWait_iff, s.dataWait_iff, ?_, rfl, rfl, rfl, fun hst => if_pos hst, ?_⟩, ?_, rfl⟩
  · rw [State.ackWait_iff, State.dataWait_iff]
    rintro ⟨hack, hdata⟩
    cases hack.symm.trans hdata
  · intro c rest hst hq
    rw [State.inFlight, if_neg hst, hq, List.head?_cons]
  · rintro (_ | _ | _) <;> rfl

/-- Settles O44. -/
theorem stepRunsTheNextRequest : Obligations.StepRunsTheNextRequest := by
  unfold Obligations.StepRunsTheNextRequest
  exact fun s r rest i hp hd => step_of_decode_eq_ok hp hd

/-- Settles O45, by the cases of `step`. -/
theorem stepWithoutTransaction : Obligations.StepWithoutTransaction := by
  unfold Obligations.StepWithoutTransaction
  constructor
  · intro s hp
    obtain ⟨_, he⟩ | ⟨_, _, _, hp', _⟩ | ⟨_, _, _, hp', _⟩ := step_cases s
    · exact he
    · simp [hp] at hp'
    · simp [hp] at hp'
  · intro s r rest e hp hd
    obtain ⟨hp', _⟩ | ⟨_, _, _, hp', hd', he⟩ | ⟨_, _, _, hp', hd', _⟩ := step_cases s
    · simp [hp] at hp'
    · cases hp.symm.trans hp'
      cases hd.symm.trans hd'
      exact he
    · cases hp.symm.trans hp'
      cases hd.symm.trans hd'

/-- Settles O46: the placed request is the head of `pending`, and `decodeTableWord` reads it as the step does. -/
theorem tableWordIsRunNext : Obligations.TableWordIsRunNext := by
  unfold Obligations.TableWordIsRunNext
  constructor
  · intro s nbits w i hd
    exact step_putNext hd
  · intro s nbits w i hk h
    have hd : decode s.cfg.k (tableRequest s.cfg.k nbits w) = .ok i := by
      rw [hk]
      unfold decodeTableWord at h
      cases hd : decode Constants.vmt (tableRequest Constants.vmt nbits w) with
      | error e => simp [hd, Except.toOption] at h
      | ok j =>
        obtain rfl : j = i := by simpa [hd, Except.toOption] using h
        rfl
    exact step_putNext hd

end Sys2Proof.Machine
end

section
/-! PROOFS. The period of SeqAdvance (R114), the received packNo (R134), and whole poll cycles (R192). -/

namespace Sys2Proof.Machine

/-! The period of SeqAdvance -/

/-- Counted from 1, `n` advances are an addition of `n` modulo 255. -/
theorem seqAdvance_iterate_toNat {v : Byte} (hv : v ≠ 0) (n : Nat) :
    (seqAdvance^[n] v).toNat = (v.toNat - 1 + n) % 255 + 1 := by
  have hpos := toNat_pos_of_ne_zero hv
  have hlt := v.isLt
  induction n with
  | zero =>
    rw [Function.iterate_zero, id_eq]
    omega
  | succ n ih =>
    rw [Function.iterate_succ_apply', seqAdvance_toNat, ih]
    split <;> omega

/-- Settles O39: 255 is the least positive number that is 0 modulo 255. -/
theorem seqAdvanceReturnsAfter255 : Obligations.SeqAdvanceReturnsAfter255 := by
  unfold Obligations.SeqAdvanceReturnsAfter255
  intro v hv
  have hpos := toNat_pos_of_ne_zero hv
  have hlt := v.isLt
  refine ⟨BitVec.eq_of_toNat_eq ?_, fun n h0 h255 heq => ?_⟩
  · rw [seqAdvance_iterate_toNat hv]
    omega
  · have hn := seqAdvance_iterate_toNat hv n
    rw [heq] at hn
    omega

/-! The received packNo -/

/-- The same block, and the same events but for the notifications that repeat the received packet. -/
structure SameEffect (t u : State) : Prop where
  st : u.st = t.st
  seq : u.seq = t.seq
  q : u.q = t.q
  refused : u.refused = t.refused
  events : effects u.events = effects t.events

theorem SameEffect.refl (t : State) : SameEffect t t := ⟨rfl, rfl, rfl, rfl, rfl⟩

theorem effects_append (as bs : List Event) : effects (as ++ bs) = effects as ++ effects bs :=
  List.filter_append as bs

/-- The notifications PKT_RX and POLL_RX are no effects. -/
theorem sameEffect_emit (s : State) {es fs : List Event} (h : effects fs = effects es) :
    SameEffect (s.emit es) (s.emit fs) :=
  ⟨rfl, rfl, rfl, rfl, by rw [State.emit_events, State.emit_events, effects_append, effects_append, h]⟩

theorem SameEffect.setAckWait {t u : State} (h : SameEffect t u) : SameEffect t.setAckWait u.setAckWait :=
  ⟨rfl, h.seq, h.q, h.refused, h.events⟩

/-- A row reads nothing of the packet but its payload. -/
def IgnoresPackNo (row : Packet → Instr) : Prop :=
  ∀ (s t : State) (p : Packet) (n : Byte), exec (row p) s = .next t →
    ∃ u, exec (row { p with packNo := n }) s = .next u ∧ SameEffect t u

theorem poll_ignoresPackNo : IgnoresPackNo .poll := by
  intro s t p n h
  obtain ⟨c, rest, hst, hq, he⟩ | ⟨hidle, he⟩ := execPoll_cases p s <;> cases he.symm.trans h
  · refine ⟨_, exec_poll_of_head _ hst hq, ?_⟩
    cases hc : c.encodable
    · rw [transmit_of_not_encodable _ _ hc, transmit_of_not_encodable _ _ hc]
      exact .refl _
    · rw [transmit_of_encodable _ _ hc, transmit_of_encodable _ _ hc]
      exact SameEffect.setAckWait (sameEffect_emit s rfl)
  · exact ⟨_, exec_poll_heartbeat _ hidle, sameEffect_emit s rfl⟩

theorem ack_ignoresPackNo : IgnoresPackNo .ack := by
  intro s t p n h
  obtain ⟨hst, he⟩ | ⟨hst, he⟩ := execAck_cases p s <;> cases he.symm.trans h
  · exact ⟨_, exec_ack_awaited _ hst, sameEffect_emit _ rfl⟩
  · exact ⟨_, exec_ack_unexpected _ hst, sameEffect_emit _ rfl⟩

theorem status_ignoresPackNo : IgnoresPackNo .status := by
  intro s t p n h
  obtain ⟨hst, he⟩ | ⟨_, _, he⟩ | ⟨c, rest, hst, hq, hr, he⟩ | ⟨c, rest, r, hst, hq, hr, hok, he⟩ |
    ⟨c, rest, r, hst, hq, hr, hfail, he⟩ := execStatus_cases p s <;> cases he.symm.trans h
  · exact ⟨_, exec_status_idle _ hst, sameEffect_emit _ rfl⟩
  · exact ⟨_, exec_status_short hst hq hr, sameEffect_emit _ rfl⟩
  · exact ⟨_, exec_status_ok hst hq hr hok, sameEffect_emit _ rfl⟩
  · exact ⟨_, exec_status_failure hst hq hr hfail, sameEffect_emit _ rfl⟩

theorem report_ignoresPackNo : IgnoresPackNo .report := by
  intro s t p n h
  obtain ⟨hst, he⟩ | ⟨hst, hr, he⟩ | ⟨r, hst, hr, hok, he⟩ | ⟨_, _, _, _, _, he⟩ |
    ⟨c, rest, r, hst, hq, hr, hfail, he⟩ := execReport_cases p s <;> cases he.symm.trans h
  · exact ⟨_, exec_report_idle _ hst, sameEffect_emit _ rfl⟩
  · exact ⟨_, exec_report_short hst hr, sameEffect_emit _ rfl⟩
  · exact ⟨_, exec_report_progress hst hr hok, sameEffect_emit _ rfl⟩
  · exact ⟨_, exec_report_terminal hst hq hr hfail, sameEffect_emit _ rfl⟩

theorem other_ignoresPackNo : IgnoresPackNo .other := by
  intro s t p n h
  cases (exec_other p s).symm.trans h
  exact ⟨_, exec_other _ s, sameEffect_emit _ rfl⟩

/-- Settles O59: with another packNo each row takes the same branch. -/
theorem receivedPackNoIsNotRead : Obligations.ReceivedPackNoIsNotRead := by
  unfold Obligations.ReceivedPackNoIsNotRead
  have hrows : ∀ row ∈ ([Instr.poll, Instr.ack, Instr.status, Instr.report, Instr.other] : List (Packet → Instr)),
      IgnoresPackNo row := by
    simp only [List.forall_mem_cons, List.not_mem_nil, false_imp_iff, implies_true, and_true]
    exact ⟨poll_ignoresPackNo, ack_ignoresPackNo, status_ignoresPackNo, report_ignoresPackNo, other_ignoresPackNo⟩
  intro row hrow s t p n h
  obtain ⟨u, hu, hst, hseq, hq, hrefused, hevents⟩ := hrows row hrow s t p n h
  exact ⟨u, hu, hst, hseq, hq, hrefused, hevents⟩

/-! Poll cycles (R192) -/

/-- A pending buffer the receive port accepts runs the row its packet selects. -/
theorem step_of_receives {s : State} {buf : Bytes} {rest : List Request} {f : Packet → Bool}
    (hp : s.pending = .port 0 buf :: rest) (h : receives s.cfg buf f = true) :
    ∃ p, f p = true ∧ step s = exec (classify s.cfg.k p) { s with pending := rest } := by
  simp only [receives, Bool.and_eq_true, Bool.not_eq_true'] at h
  obtain ⟨hsize, hf⟩ := h
  cases hd : Codec.decode s.cfg.k buf with
  | none => simp [hd] at hf
  | some p =>
    refine ⟨p, by simpa [hd] using hf, ?_⟩
    rw [step_of_decode_eq_ok hp (i := .rxFrame buf) rfl]
    exact exec_rxFrame_of_decode_eq_some (s := { s with pending := rest }) hsize hd

/-- A result that ends the command completes it in either waiting state, with the ACK as its one frame (R122, R123,
R130). -/
theorem exec_endsCommand {s : State} {p c : Packet} {rest : List Packet} (hk : s.cfg.k.Distinct)
    (hend : endsCommand s.cfg.k p = true) (hst : s.st ≠ .idle) (hq : s.q = c :: rest) :
    ∃ es, exec (classify s.cfg.k p) s = .next (s.complete.emit es) ∧ txFrames es = [bareAck s.cfg.k] := by
  unfold endsCommand at hend
  cases hr : slotResult p.payload with
  | none =>
    have hc : p.command = s.cfg.k.cmdStatus := by simpa [hr] using hend
    rw [classify_of_status hk hc]
    exact ⟨_, exec_status_short hst hq hr, rfl⟩
  | some r =>
    obtain ⟨hc | hc, hfail⟩ : (p.command = s.cfg.k.cmdStatus ∨ p.command = s.cfg.k.cmdReport) ∧
        r.status ≠ s.cfg.k.stOk := by simpa [hr] using hend
    · rw [classify_of_status hk hc]
      exact ⟨_, exec_status_failure hst hq hr hfail, rfl⟩
    · rw [classify_of_report hk hc]
      exact ⟨_, exec_report_terminal hst hq hr hfail, rfl⟩

/-- What a cycle keeps and appends: the configuration and the refusal mark stay, `frames` are sent. -/
structure Sends (frames : List Bytes) (s t : State) : Prop where
  cfg : t.cfg = s.cfg
  refused : t.refused = s.refused
  sent : txFrames t.events = txFrames s.events ++ frames

theorem Sends.refl (s : State) : Sends [] s s := ⟨rfl, rfl, (List.append_nil _).symm⟩

theorem Sends.trans {fs gs : List Bytes} {s t u : State} (h : Sends fs s t) (h' : Sends gs t u) :
    Sends (fs ++ gs) s u :=
  ⟨h'.cfg.trans h.cfg, h'.refused.trans h.refused, by rw [h'.sent, h.sent, List.append_assoc]⟩

section Cycle

variable {s : State} {buf : Bytes} {c : Packet} {rest : List Packet} {more : List Request}

theorem step_poll_sends (hp : s.pending = .port 0 buf :: more)
    (hbuf : receives s.cfg buf (fun p => p.command == s.cfg.k.cmdPoll) = true) (hst : s.st = .idle)
    (hq : s.q = c :: rest) (hc : c.encodable = true) :
    ∃ t, step s = .next t ∧ Sends [Codec.frame s.cfg.k c] s t ∧
      t.st = .awaitAck ∧ t.q = s.q ∧ t.seq = s.seq ∧ t.pending = more := by
  obtain ⟨p, hcommand, h⟩ := step_of_receives hp hbuf
  rw [classify_of_poll (by simpa using hcommand), exec_poll_sends (s := { s with pending := more }) p hst hq hc] at h
  exact ⟨_, h, ⟨rfl, rfl, by simp⟩, rfl, rfl, rfl, rfl⟩

theorem step_ack_taken (hk : s.cfg.k.Distinct) (hp : s.pending = .port 0 buf :: more)
    (hbuf : receives s.cfg buf (fun p => p.command == s.cfg.k.cmdAck) = true) (hst : s.st = .awaitAck) :
    ∃ t, step s = .next t ∧ Sends [] s t ∧
      t.st = .awaitData ∧ t.q = s.q ∧ t.seq = s.seq ∧ t.pending = more := by
  obtain ⟨p, hcommand, h⟩ := step_of_receives hp hbuf
  rw [classify_of_ack hk (by simpa using hcommand), exec_ack_awaited (s := { s with pending := more }) p hst] at h
  exact ⟨_, h, ⟨rfl, rfl, by simp⟩, rfl, rfl, rfl, rfl⟩

theorem step_result_completes (hk : s.cfg.k.Distinct) (hp : s.pending = .port 0 buf :: more)
    (hbuf : receives s.cfg buf (endsCommand s.cfg.k) = true) (hst : s.st ≠ .idle) (hq : s.q = c :: rest) :
    ∃ t, step s = .next t ∧ Sends [bareAck s.cfg.k] s t ∧
      t.st = .idle ∧ t.q = rest ∧ t.seq = seqAdvance s.seq ∧ t.pending = more := by
  obtain ⟨p, hend, h⟩ := step_of_receives hp hbuf
  obtain ⟨es, he, hes⟩ := exec_endsCommand (s := { s with pending := more }) hk hend hst hq
  exact ⟨_, h.trans he, ⟨rfl, rfl, by simp [hes]⟩, rfl, by simp [hq], rfl, rfl⟩

/-- One cycle from IDLE sends the head of the queue and completes it. -/
theorem run_cycle {y : PollCycle} (hk : s.cfg.k.Distinct) (hst : s.st = .idle) (hq : s.q = c :: rest)
    (hc : c.encodable = true) (hy : y.completes s.cfg = true) (hp : s.pending = y.requests ++ more) :
    ∃ t, Host.Core.run Sys2Proof.core 3 s = .next t ∧ Sends [Codec.frame s.cfg.k c, bareAck s.cfg.k] s t ∧
      t.st = .idle ∧ t.q = rest ∧ t.seq = seqAdvance s.seq ∧ t.pending = more := by
  simp only [PollCycle.completes, Bool.and_eq_true] at hy
  obtain ⟨⟨hpoll, hack⟩, hresult⟩ := hy
  obtain ⟨t₁, h₁, hs₁, hst₁, hq₁, hseq₁, hp₁⟩ := step_poll_sends hp hpoll hst hq hc
  rw [← hs₁.cfg] at hk hack hresult
  obtain ⟨t₂, h₂, hs₂, hst₂, hq₂, hseq₂, hp₂⟩ := step_ack_taken hk hp₁ hack hst₁
  rw [← hs₂.cfg] at hk hresult
  obtain ⟨t₃, h₃, hs₃, hst₃, hq₃, hseq₃, hp₃⟩ :=
    step_result_completes hk hp₂ hresult (by simp [hst₂]) (hq₂.trans (hq₁.trans hq))
  refine ⟨t₃, ?_, ?_, hst₃, hq₃, ?_, hp₃⟩
  · rw [run_succ_of_next 2 h₁, run_succ_of_next 1 h₂, run_succ_of_next 0 h₃]
    rfl
  · rw [hs₂.cfg, hs₁.cfg] at hs₃
    exact hs₁.trans (hs₂.trans hs₃)
  · rw [hseq₃, hseq₂, hseq₁]

end Cycle

/-- R192, for any queue of packets ENCODE accepts: by induction on the cycles. -/
theorem run_cycles (ys : List PollCycle) {s : State} {rest : List Request} (hk : s.cfg.k.Distinct)
    (hst : s.st = .idle) (hq : ∀ c ∈ s.q, c.encodable = true) (hlen : ys.length = s.q.length)
    (hys : ∀ y ∈ ys, y.completes s.cfg = true) (hp : s.pending = ys.flatMap PollCycle.requests ++ rest) :
    ∃ t, Host.Core.run Sys2Proof.core (3 * ys.length) s = .next t ∧
      Sends (s.q.flatMap fun c => [Codec.frame s.cfg.k c, bareAck s.cfg.k]) s t ∧
      t.st = .idle ∧ t.q = [] ∧ t.seq = seqAdvance^[ys.length] s.seq ∧ t.pending = rest := by
  induction ys generalizing s with
  | nil =>
    have hempty : s.q = [] := List.eq_nil_of_length_eq_zero hlen.symm
    exact ⟨s, rfl, by simpa [hempty] using Sends.refl s, hst, hempty, rfl, hp⟩
  | cons y ys ih =>
    obtain ⟨c, q, hcq⟩ := List.exists_cons_of_length_eq_add_one hlen.symm
    simp only [hcq, List.forall_mem_cons, List.length_cons, Nat.add_right_cancel_iff] at hq hys hlen
    obtain ⟨hc, hq⟩ := hq
    obtain ⟨hy, hys⟩ := hys
    rw [List.flatMap_cons, List.append_assoc] at hp
    obtain ⟨t, hrun, hsends, hst', hq', hseq', hp'⟩ := run_cycle hk hst hcq hc hy hp
    rw [← hq'] at hq hlen
    rw [← hsends.cfg] at hk hys
    obtain ⟨u, hrun', hsends', hu⟩ := ih hk hst' hq hlen hys hp'
    rw [hsends.cfg, hq'] at hsends'
    refine ⟨u, ?_, ?_, ?_⟩
    · rw [List.length_cons, Nat.mul_succ, Nat.add_comm, run_add_of_next 3 _ hrun, hrun']
    · rw [hcq, List.flatMap_cons]
      exact hsends.trans hsends'
    · rwa [List.length_cons, Function.iterate_succ_apply, ← hseq']

/-- Settles O60: the packets of the queue are well-formed, so every cycle sends one. -/
theorem cyclesDrainTheQueueInOrder : Obligations.CyclesDrainTheQueueInOrder := by
  unfold Obligations.CyclesDrainTheQueueInOrder
  intro s ys rest hinv hst hlen hys hp
  have hk := Constants.Distinct.of_distinct (Config.distinct_of_wf hinv.cfgWf)
  have hq : ∀ c ∈ s.q, c.encodable = true := by
    intro c hc
    obtain ⟨hwf, _, _⟩ := hinv.queueable c hc
    exact Packet.encodable_of_wf hwf
  obtain ⟨t, hrun, hsends, hst', hq', hseq', hp'⟩ := run_cycles ys hk hst hq hlen hys hp
  exact ⟨t, hrun, hst', hq', hp', hseq', hsends.refused, hsends.sent⟩

end Sys2Proof.Machine
end
